-- ==== Sys2Proof/Word.lean ====
section
/-! DEFINITION. The widths of the block's values (00_scope.md R9, R10, R11): every number is unsigned and
bit `k` of a value has weight `2^k`. -/

namespace Sys2Proof

/-- A link byte or buffer byte: 8 bits (R9). -/
abbrev Byte := BitVec 8

/-- A cell position, an `id` or a press count: 16 bits, unsigned (R9). -/
abbrev Half := BitVec 16

/-- The scan counter: 32 bits, unsigned (R9). -/
abbrev ScanCount := BitVec 32

/-- A command word or a response word: 64 bits (R9). -/
abbrev Word := BitVec 64

/-- The byte whose bit `k` is `f k`, for `k` = 0 .. 7 (bit numbering of R10). -/
def byteOf (f : Nat → Bool) : Byte :=
  BitVec.ofBool (f 7) ++ BitVec.ofBool (f 6) ++ BitVec.ofBool (f 5) ++ BitVec.ofBool (f 4) ++
    BitVec.ofBool (f 3) ++ BitVec.ofBool (f 2) ++ BitVec.ofBool (f 1) ++ BitVec.ofBool (f 0)

end Sys2Proof
end

