-- ==== Sys2Proof/Config.lean ====
section
/-! DEFINITION. The configuration: the parameters a block is constructed with (00_scope.md R7, R8). They are
fixed from one reset to the next (10_state.md R46), so the machine's state carries them and every statement
about a state is a statement about every configuration. -/

namespace Sys2Proof

/-- The construction parameters of R7, under the spec's names. A value may lie outside its legal range: the
configuration is then malformed (R241, `Config.malformed`). The fields with a default have the spec's default. -/
structure Config where
  /-- `N_CELLS`, the number of button/lamp cells in the chain; no default in the spec -/
  nCells : Nat
  /-- `FLASH1_PERIOD` (P1), in scans -/
  flash1Period : Nat := 3
  /-- `FLASH2_PERIOD` (P2), in scans -/
  flash2Period : Nat := 1
  /-- `HOLD_THRESHOLD` (H), in consecutive pressed scans -/
  holdThreshold : Nat := 10
  /-- `SPI_MODE`; no default in the spec -/
  spiMode : Nat
  /-- `CLOCK_RATE`, OPEN in the spec: any value, and the core never reads it (R7, R196, R253) -/
  clockRate : Nat
  /-- `WORD_SIZE`, the link word size -/
  wordSize : Nat := 8
  deriving DecidableEq, Repr

/-- `NB`, the length in bytes of the transmit buffer and of every link exchange (R8). -/
def Config.nb (c : Config) : Nat := (c.nCells + 7) / 8

/-- The configuration of `State.reset`. DESIGN CHOICE (log entry 1): the spec gives `N_CELLS`, `SPI_MODE` and
`CLOCK_RATE` no default; 20 cells and mode 0 are those of its own test vectors, and no rule reads the clock rate.
Every other parameter has the spec's default. -/
def Config.standard : Config := { nCells := 20, spiMode := 0, clockRate := 0 }

end Sys2Proof
end

