-- ==== Sys2Proof/Machine/Construct.lean ====
section
/-! DEFINITION. What construction checks and hands on: the configuration check of 70_reset_and_hazards.md R241
and the values given to the device configuration collaborator (43_scan_controller.md R196). -/

namespace Sys2Proof

/-- `SPI_MODE` is in 0..3 (R241). -/
def Config.spiModeLegal (c : Config) : Bool := c.spiMode ≤ 3

/-- `N_CELLS` is in 1..32767 (R241). -/
def Config.nCellsLegal (c : Config) : Bool := 1 ≤ c.nCells && c.nCells ≤ 32767

/-- A flash period is in 1..2^32−1 (R241). -/
def Config.periodLegal (p : Nat) : Bool := 1 ≤ p && p ≤ 2 ^ 32 - 1

/-- `HOLD_THRESHOLD` is in 0..65534 (R241). -/
def Config.holdThresholdLegal (c : Config) : Bool := c.holdThreshold ≤ 65534

/-- `WORD_SIZE` is 8 (R241). -/
def Config.wordSizeLegal (c : Config) : Bool := c.wordSize == 8

/-- The configuration is malformed (R7, R241): some parameter is outside its legal range. `CLOCK_RATE` is not
checked, any value being legal. -/
def Config.malformed (c : Config) : Bool :=
  !(c.spiModeLegal && c.nCellsLegal && Config.periodLegal c.flash1Period &&
    Config.periodLegal c.flash2Period && c.holdThresholdLegal && c.wordSizeLegal)

/-- What the device configuration collaborator receives, once, at construction (R196). -/
structure DeviceSetup where
  spiMode : Nat
  clockRate : Nat
  wordSize : Nat
  deriving DecidableEq, Repr

/-- The values construction hands to the device configuration collaborator (R196). The core does not talk to it
afterwards; what they mean to the link is outside the spec (00_scope.md R6). DESIGN CHOICE (log entry 16): R196 does
not say what is handed over when the configuration is malformed; here it is the values as they stand. -/
def Config.deviceSetup (c : Config) : DeviceSetup :=
  { spiMode := c.spiMode, clockRate := c.clockRate, wordSize := c.wordSize }

end Sys2Proof
end

