-- ==== Sys2Proof/Syntax.lean ====
section
/-! DEFINITION. The host commands, which are the block's instructions (00_scope.md R3, 30_encoding.md R84), and
the operands they carry. -/

namespace Sys2Proof

/-- A cell's primary state (10_state.md R31): exactly one of the four holds at any time. -/
inductive PrimaryState where
  | off
  | on
  | flash1
  | flash2
  deriving DecidableEq, Repr

/-- The fields of a cell byte `cb` (30_encoding.md R80), the same in commands and in responses. -/
structure CellByte where
  primaryState : PrimaryState
  lampOn : Bool
  toggleMode : Bool
  notifyOnChange : Bool
  notifyOnHold : Bool
  holdEventPending : Bool
  lastScanPressed : Bool
  deriving DecidableEq, Repr

/-- The three host commands (R84), one constructor per row of spec/opcode_table.json. -/
inductive Instr where
  /-- SET_CELL (43_scan_controller.md R186): the registration write -/
  | setCell (pos : Half) (cb : CellByte) (count : Half)
  /-- GET_CELL (R188): the registration read -/
  | getCell (pos : Half)
  /-- RUN_SCAN (R182): one scan cycle -/
  | runScan
  deriving DecidableEq, Repr

end Sys2Proof
end

