-- ==== Sys2Proof/WellFormed.lean ====
section
/-! DEFINITION. The static checks. A configuration is well formed when every parameter is in its legal range
(00_scope.md R7). An instruction's operands have the widths of their fields, so every term of `Instr` has an
encoding; what is left to check of it is the range of its position (20_memory.md R69). -/

namespace Sys2Proof

/-- Every parameter is in its legal range (R7). -/
def Config.wellFormed (c : Config) : Bool := !c.malformed

/-- The instruction names a position of the chain, 0 ≤ POS < N_CELLS, or none at all (R69). The block answers
ERR_INDEX to one that does not (60_exceptions.md R211). -/
def Instr.wellFormed (c : Config) : Instr → Bool
  | .setCell pos _ _ => pos.toNat < c.nCells
  | .getCell pos => pos.toNat < c.nCells
  | .runScan => true

end Sys2Proof
end

