-- ==== Sys2Proof/Decode.lean ====
section
/-! DEFINITION. The command decoder of 30_encoding.md R85 and the encoder of R82 to R84. Every command is one
64-bit word (R89), so the decoder takes a word and is total on words. -/

namespace Sys2Proof

/-- The numeric code of a primary state (R81). -/
def PrimaryState.code : PrimaryState → BitVec 2
  | .off => 0
  | .on => 1
  | .flash1 => 2
  | .flash2 => 3

/-- The primary state of a code; all four codes are legal (R81). -/
def PrimaryState.ofCode (k : BitVec 2) : PrimaryState :=
  if k = 0 then .off else if k = 1 then .on else if k = 2 then .flash1 else .flash2

/-- The cell byte's bits, in the layout of R80 (`cell_byte` of R92). -/
def CellByte.bits (b : CellByte) : Byte :=
  BitVec.ofBool b.lastScanPressed ++ BitVec.ofBool b.holdEventPending ++ BitVec.ofBool b.notifyOnHold ++
    BitVec.ofBool b.notifyOnChange ++ BitVec.ofBool b.toggleMode ++ BitVec.ofBool b.lampOn ++ b.primaryState.code

/-- The fields of a cell byte, in the layout of R80. -/
def CellByte.ofBits (v : Byte) : CellByte :=
  { primaryState := PrimaryState.ofCode (v.extractLsb' 0 2)
    lampOn := v.getLsbD 2
    toggleMode := v.getLsbD 3
    notifyOnChange := v.getLsbD 4
    notifyOnHold := v.getLsbD 5
    holdEventPending := v.getLsbD 6
    lastScanPressed := v.getLsbD 7 }

/-- `OPC = cmd[3:0]` (R82). -/
def opcField (w : Word) : BitVec 4 := w.extractLsb' 0 4

/-- `RSV0 = cmd[7:4]` (R82). -/
def rsv0Field (w : Word) : BitVec 4 := w.extractLsb' 4 4

/-- `CB = cmd[15:8]` (R82, R83). -/
def cbField (w : Word) : Byte := w.extractLsb' 8 8

/-- `POS = cmd[31:16]` (R82, R83). -/
def posField (w : Word) : Half := w.extractLsb' 16 16

/-- `COUNT = cmd[47:32]` (R82, R83). -/
def countField (w : Word) : Half := w.extractLsb' 32 16

/-- `RSV1 = cmd[63:48]` (R82). -/
def rsv1Field (w : Word) : Half := w.extractLsb' 48 16

/-- Why a word is Illegal (R86); the block does not report the reason (log entry 14). -/
inductive Illegal where
  /-- `RSV0` or `RSV1` is not 0 -/
  | reservedField
  /-- opcode 0x0 or 0x4 to 0xF -/
  | reservedOpcode
  /-- a field that this opcode must leave at 0 is not 0 -/
  | unusedField
  deriving DecidableEq, Repr

/-- The decoder (R85): every word is exactly one of the three commands or Illegal, and an Illegal word is rejected
by the name of its reason. -/
def decode (w : Word) : Except Illegal Instr :=
  if rsv0Field w ≠ 0 ∨ rsv1Field w ≠ 0 then .error .reservedField
  else if opcField w = 1 then .ok (.setCell (posField w) (CellByte.ofBits (cbField w)) (countField w))
  else if opcField w = 2 then
    if cbField w ≠ 0 ∨ countField w ≠ 0 then .error .unusedField else .ok (.getCell (posField w))
  else if opcField w = 3 then
    if cbField w ≠ 0 ∨ posField w ≠ 0 ∨ countField w ≠ 0 then .error .unusedField else .ok .runScan
  else .error .reservedOpcode

/-- A command word from its fields (R82), the two reserved ones 0. -/
def commandWord (count pos : Half) (cb : Byte) (opc : BitVec 4) : Word :=
  0#16 ++ count ++ pos ++ cb ++ 0#4 ++ opc

/-- The encoder (R82, R84). -/
def encode : Instr → Word
  | .setCell pos cb count => commandWord count pos cb.bits 1
  | .getCell pos => commandWord 0 pos 0 2
  | .runScan => commandWord 0 0 0 3

/-- The command that a word of spec/opcode_table.json's numbering decodes to: its low `nbits` bits as one command
word, every bit above them 0. -/
def decodeTableWord (nbits w : Nat) : Option Instr :=
  (decode (BitVec.ofNat 64 (w % 2 ^ nbits))).toOption

end Sys2Proof
end

