-- ==== Sys2Proof/Machine/State.lean ====
section
/-! DEFINITION. The machine's state as plain data (10_state.md), the inputs and outputs at its two ports, the state
after reset (R49, R240), and the reasons a step can stop. -/

namespace Sys2Proof.Machine

/-- A cell record (R30). Any combination of field values is legal. -/
structure Cell where
  /-- the cell's position in the chain (R32) -/
  id : Half
  primaryState : PrimaryState
  /-- the lamp output (R33) -/
  lampOn : Bool
  toggleMode : Bool
  notifyOnChange : Bool
  notifyOnHold : Bool
  holdEventPending : Bool
  /-- whether the previous scan's sample was pressed (R38) -/
  lastScanPressed : Bool
  consecutivePressedScans : Half
  deriving DecidableEq, Repr

/-- The sequencing state (R44). -/
inductive Phase where
  /-- no command is executing -/
  | idle
  /-- a RUN_SCAN has handed its link bytes to the transport and waits for the answer -/
  | xferWait
  deriving DecidableEq, Repr

/-- What the transport answers to one Exchange call (43_scan_controller.md R193). The length of `bytes` is any, so
that R194's wrong length can be said. -/
inductive Answer where
  | ok (bytes : List Byte)
  | fail (reason : Byte)
  deriving DecidableEq, Repr

/-- The state. The fields down to `cfgFault` are the block's own (10_state.md); the others are the MODEL's: what the
HOST and the TRANSPORT (00_scope.md R4) put to the block and what it has given them (log entries 2 to 5). -/
structure State where
  /-- the construction parameters (R46) -/
  cfg : Config
  /-- the cell array: cell `p` is entry `p` (R40) -/
  cells : List Cell
  /-- the scan counter `sc` (R41) -/
  sc : ScanCount
  /-- the transmit buffer `tx`, in cell order (R42) -/
  tx : List Byte
  /-- `phase` (R44) -/
  phase : Phase
  /-- `cfg_fault` (R45) -/
  cfgFault : Bool
  /-- the command words the host offers and the block has not accepted, the next one first -/
  commands : List Word
  /-- the transport's answers to the Exchange calls not yet answered, in the order of the calls: when a call is
  outstanding the first entry is the answer to it, and an empty list is a transport that never answers -/
  answers : List Answer
  /-- the reset input over the coming steps: entry `k` is what the step after `k` further steps sees, `some c` a
  reset with the configuration `c`; past the end there is none -/
  resets : List (Option Config)
  /-- every response word delivered to the host, the oldest first -/
  responses : List Word
  /-- the link bytes of every Exchange call made, the oldest first -/
  linkOut : List (List Byte)
  deriving DecidableEq, Repr

/-- A fault of the machine: there is none. Every error of this block is a response word, after which it goes on
(60_exceptions.md R210, R215), so the type has no constructor: safe, no step can stop with a fault. -/
inductive Fault where
  deriving DecidableEq, Repr

/-- A refusal. -/
inductive Refusal where
  /-- raised by `exec` for an instruction without a meaning; no arm answers it, every instruction having one. Safe:
  the machine would stop where the hardware goes on. -/
  | notModelled (mnemonic : String)
  deriving DecidableEq, Repr

/-- Cell `p` after reset (R49): `Off`, `id` = `p` (in 16 bits, log entry 9), every flag 0, the press counter 0. -/
def Cell.initial (p : Nat) : Cell :=
  { id := BitVec.ofNat 16 p
    primaryState := .off
    lampOn := false
    toggleMode := false
    notifyOnChange := false
    notifyOnHold := false
    holdEventPending := false
    lastScanPressed := false
    consecutivePressedScans := 0 }

/-- Reset, the source's construction, with the configuration it takes as its argument (R49, R240, R241). The ports
are empty: nothing has been offered, answered or delivered. -/
def State.construct (c : Config) : State :=
  { cfg := c
    cells := (List.range c.nCells).map Cell.initial
    sc := 0
    tx := List.replicate c.nb 0
    phase := .idle
    cfgFault := c.malformed
    commands := []
    answers := []
    resets := []
    responses := []
    linkOut := [] }

/-- The machine right after reset, with the configuration of log entry 1. -/
def State.reset : State := State.construct Config.standard

end Sys2Proof.Machine
end

