-- ==== Sys2Proof/Machine/Response.lean ====
section
/-! DEFINITION. The response words (30_encoding.md R90 to R94) and the error kinds reported by them
(60_exceptions.md R210 to R215). -/

namespace Sys2Proof.Machine

/-- The cell byte of a record (R80, `cell_byte` of R92). -/
def Cell.cellByte (c : Cell) : CellByte :=
  { primaryState := c.primaryState
    lampOn := c.lampOn
    toggleMode := c.toggleMode
    notifyOnChange := c.notifyOnChange
    notifyOnHold := c.notifyOnHold
    holdEventPending := c.holdEventPending
    lastScanPressed := c.lastScanPressed }

/-- The SNAPSHOT word of a record (`snapshot_word` of R92). -/
def snapshotWord (c : Cell) : Word :=
  0#16 ++ c.consecutivePressedScans ++ c.id ++ c.cellByte.bits ++ 0x01#8

/-- The DONE word with `K` events and scan value `S` (R90, R93). -/
def doneWord (k : Half) (s : ScanCount) : Word := s ++ k ++ 0#8 ++ 0x00#8

/-- The error kinds (R211 to R214). There is no other (R215). -/
inductive ErrorKind where
  /-- IndexOutOfRange, with the failing command's POS -/
  | indexOutOfRange (pos : Half)
  /-- TransportError, with the transport's REASON -/
  | transportError (reason : Byte)
  /-- ConfigError -/
  | configError
  /-- IllegalCommand -/
  | illegalCommand
  deriving DecidableEq, Repr

/-- The error word of a kind (R90, R94). -/
def ErrorKind.word : ErrorKind → Word
  | .indexOutOfRange pos => 0#32 ++ pos ++ 0#8 ++ 0x08#8
  | .transportError reason => 0#48 ++ reason ++ 0x09#8
  | .configError => 0x000000000000000A#64
  | .illegalCommand => 0x000000000000000B#64

end Sys2Proof.Machine
end

