-- ==== Sys2Proof/Machine/Ops.lean ====
section
/-! DEFINITION. The operations shared by the commands: the cell array, the response port, reporting an error,
accepting a command, the reset, and what the block does next. -/

namespace Sys2Proof.Machine

/-! ### The cell array (20_memory.md R60, R65) -/

/-- `CellRead(p)`: a copy of the whole record at position `p` (00_scope.md R12). A position past the array reads as
a cell at reset; no command reads one (`State.positionValid`, log entry 10). -/
def State.cellRead (s : State) (p : Nat) : Cell := s.cells.getD p (Cell.initial p)

/-- Write the record at position `p`. -/
def State.cellWrite (s : State) (p : Nat) (c : Cell) : State := { s with cells := s.cells.set p c }

/-! ### Responses and errors -/

/-- `emit` (00_scope.md R12), for several words in order: they are appended to what the host has been given. -/
def State.emit (s : State) (ws : List Word) : State := { s with responses := s.responses ++ ws }

/-- `raise E` (00_scope.md R12, 60_exceptions.md R210): the command ends with exactly one error word and the block
is `IDLE` (R218). This is the block's only exception entry: nothing is saved, no mode changes, and so there is
nothing to return from; the state effects of an error are those made before it is raised. -/
def State.raise (s : State) (e : ErrorKind) : State := { s.emit [e.word] with phase := .idle }

/-- The checks in front of every command, whichever it is (R180, R181, R216). In `XFER_WAIT` a command is not
accepted and has no effect; with `cfg_fault` = 1 it is answered ERR_CONFIG; else `run` is what it does. -/
def State.accept (s : State) (run : State → State) : State :=
  match s.phase with
  | .xferWait => s
  | .idle => if s.cfgFault then s.raise .configError else run s

/-- An accepted word that decodes to Illegal (R181, R214). -/
def State.refuseIllegal (s : State) : State := s.accept (fun s => s.raise .illegalCommand)

/-! ### What the block does next -/

/-- The block's next move. -/
inductive Turn where
  /-- the reset input is active (70_reset_and_hazards.md R242) -/
  | reset (c : Config)
  /-- the transport has answered the outstanding call (R184, R185) -/
  | complete (a : Answer)
  /-- the transport has not answered: the block waits (R254) -/
  | hang
  /-- the host offers a command and the block accepts it (R180) -/
  | accept (w : Word)
  /-- no command is offered: the block does nothing (60_exceptions.md R226) -/
  | rest
  deriving DecidableEq, Repr

/-- The block's next move. Reset wins over everything (60_exceptions.md R217); in `XFER_WAIT` only the transport's
answer moves the block (R180, R254); in `IDLE` the next offered command does. -/
def State.turn (s : State) : Turn :=
  match s.resets.head? with
  | some (some c) => .reset c
  | _ =>
    match s.phase with
    | .xferWait =>
      match s.answers.head? with
      | some a => .complete a
      | none => .hang
    | .idle =>
      match s.commands.head? with
      | some w => .accept w
      | none => .rest

/-- One step of the reset input has passed. -/
def State.tick (s : State) : State := { s with resets := s.resets.tail }

/-- The block has taken the offered command. -/
def State.takeCommand (s : State) : State := { s.tick with commands := s.commands.tail }

/-- The block has taken the transport's answer. -/
def State.takeAnswer (s : State) : State := { s.tick with answers := s.answers.tail }

/-- Reset while the block is in any phase (R240, R242). The state becomes that of a construction with `c`. A scan
in `XFER_WAIT` gets no response and the answer to its call is discarded. What has been delivered stays delivered,
and a command that was not accepted is still offered (log entry 5). -/
def State.takeReset (s : State) (c : Config) : State :=
  { State.construct c with
    commands := s.commands
    answers := match s.phase with
      | .xferWait => s.answers.tail
      | .idle => s.answers
    resets := s.resets.tail
    responses := s.responses
    linkOut := s.linkOut }

end Sys2Proof.Machine
end

