-- ==== Sys2Proof/Machine/Operands.lean ====
section
/-! DEFINITION. The operand forms of the commands: POS as a position and as a place in a buffer, CB and COUNT as
the record they replace (20_memory.md R61, R69; 43_scan_controller.md R186), and the record functions of R190. -/

namespace Sys2Proof.Machine

/-- `POS < N_CELLS`, compared as unsigned numbers (R69, 30_encoding.md R83). -/
def State.positionValid (s : State) (pos : Half) : Bool := pos.toNat < s.cfg.nCells

/-- The buffer byte that holds cell `p`'s bit (R61). -/
def byteIndex (p : Nat) : Nat := p / 8

/-- The place of cell `p`'s bit in its buffer byte (R61). -/
def bitIndex (p : Nat) : Nat := p % 8

/-- The record SET_CELL leaves (R186): the seven fields of its operands. `id` and `lamp_on` stay, and the operand's
`lamp_on` bit is ignored (30_encoding.md R87). -/
def Cell.configure (c : Cell) (cb : CellByte) (count : Half) : Cell :=
  { c with
    primaryState := cb.primaryState
    toggleMode := cb.toggleMode
    notifyOnChange := cb.notifyOnChange
    notifyOnHold := cb.notifyOnHold
    holdEventPending := cb.holdEventPending
    lastScanPressed := cb.lastScanPressed
    consecutivePressedScans := count }

/-- `setState` (R190): a function on a record; it does not touch the block. -/
def Cell.setState (c : Cell) (s : PrimaryState) : Cell := { c with primaryState := s }

/-- `getState` (R190). -/
def Cell.getState (c : Cell) : PrimaryState := c.primaryState

end Sys2Proof.Machine
end

