-- ==== Sys2Proof/Machine/Registration.lean ====
section
/-! DEFINITION. The registration commands SET_CELL and GET_CELL (43_scan_controller.md R186 to R189). -/

namespace Sys2Proof.Machine

/-- SET_CELL (R186, R187). -/
def State.setCell (s : State) (pos : Half) (cb : CellByte) (count : Half) : State :=
  if s.positionValid pos then
    (s.cellWrite pos.toNat ((s.cellRead pos.toNat).configure cb count)).emit [doneWord 0 0]
  else s.raise (.indexOutOfRange pos)

/-- GET_CELL (R188, R189). -/
def State.getCell (s : State) (pos : Half) : State :=
  if s.positionValid pos then s.emit [snapshotWord (s.cellRead pos.toNat)]
  else s.raise (.indexOutOfRange pos)

/-- The meaning of SET_CELL, with the checks in front of every command (R181). -/
def execSetCell (pos : Half) (cb : CellByte) (count : Half) (s : State) : Host.Outcome State Fault Refusal :=
  .next (s.accept fun s => s.setCell pos cb count)

/-- The meaning of GET_CELL, with the checks in front of every command (R181). -/
def execGetCell (pos : Half) (s : State) : Host.Outcome State Fault Refusal :=
  .next (s.accept fun s => s.getCell pos)

end Sys2Proof.Machine
end

