-- ==== Sys2Proof/Machine/Flags.lean ====
section
/-! DEFINITION. The counters' arithmetic and the conditions computed from a sample (00_scope.md R11,
42_input_decoder.md R152 to R155, R160, 41_output_encoder.md R133). None of the conditions is stored
(10_state.md R47). -/

namespace Sys2Proof.Machine

/-- `sat_inc16` (00_scope.md R11): the press counter stays at 0xFFFF. -/
def satInc16 (x : Half) : Half := if x.toNat < 0xFFFF then x + 1 else 0xFFFF

/-- `wrap_inc32` (00_scope.md R11): the scan counter wraps to 0. -/
def wrapInc32 (x : ScanCount) : ScanCount := BitVec.ofNat 32 ((x.toNat + 1) % 2 ^ 32)

/-- `is_down` (R152): pressed now, released on the previous scan. -/
def isDown (pressed last : Bool) : Bool := pressed && (pressed != last)

/-- `is_up` (R152): released now, pressed on the previous scan. -/
def isUp (pressed last : Bool) : Bool := !pressed && (pressed != last)

/-- The press counter after step 3 (R154). -/
def pressCount (pressed : Bool) (count : Half) : Half := if pressed then satInc16 count else 0

/-- `is_hold` (R155): the updated count exceeds the threshold, strictly. -/
def isHold (threshold : Nat) (count : Half) : Bool := count.toNat > threshold

/-- TOGGLE (R160): `Off` becomes `On`, every other state `Off`. -/
def toggle (s : PrimaryState) : PrimaryState := if s = .off then .on else .off

/-- A flash period divides the scan value, so the lamp toggles (41_output_encoder.md R133, R134). -/
def flashDue (period : Nat) (s : ScanCount) : Bool := s.toNat % period == 0

end Sys2Proof.Machine
end

