-- ==== Sys2Proof/Machine/Link.lean ====
section
/-! DEFINITION. The link-facing data path (40_bit_order.md): REV8, PACK, UNPACK, and a bit of the transmit buffer. -/

namespace Sys2Proof.Machine

/-- REV8 (R120): bit `k` of the result is bit `7 − k` of the operand. -/
def rev8 (b : Byte) : Byte := byteOf fun k => b.getLsbD (7 - k)

/-- REV8 on every byte of a sequence: how bytes cross the link in either direction (R122). -/
def reverseBytes (bs : List Byte) : List Byte := bs.map rev8

/-- The lamp bit of position `i`; none where there is no cell. -/
def lampBit (cells : List Cell) (i : Nat) : Bool := (cells[i]?.map Cell.lampOn).getD false

/-- PACK (R124): byte `j` holds the lamp bits of cells `8j` to `8j+7`, and 0 for the padding (20_memory.md R62). -/
def pack (nCells : Nat) (cells : List Cell) (j : Nat) : Byte :=
  byteOf fun k => decide (8 * j + k < nCells) && lampBit cells (8 * j + k)

/-- The byte with bit `k` set to `v`. -/
def setBit (b : Byte) (k : Nat) (v : Bool) : Byte := byteOf fun i => if i = k then v else b.getLsbD i

/-- `tx[p div 8][p mod 8] <- v` (41_output_encoder.md R130, 20_memory.md R61). -/
def txWrite (tx : List Byte) (p : Nat) (v : Bool) : List Byte :=
  tx.modify (byteIndex p) fun b => setBit b (bitIndex p) v

/-- Bit `p mod 8` of byte `p div 8` of a buffer (20_memory.md R61). -/
def bufferBit (buf : List Byte) (p : Nat) : Bool := (buf.getD (byteIndex p) 0).getLsbD (bitIndex p)

/-- UNPACK (R125, 42_input_decoder.md R151): a sample of 0 is pressed. -/
def pressed (rx : List Byte) (p : Nat) : Bool := bufferBit rx p == false

end Sys2Proof.Machine
end

