-- ==== Sys2Proof/Machine/OutputEncoder.lean ====
section
/-! DEFINITION. The lamp animation encoder (41_output_encoder.md). -/

namespace Sys2Proof.Machine

/-- The lamp bit of a cell in the scan with value `S` (R131 to R134). -/
def lampFor (cfg : Config) (S : ScanCount) (c : Cell) : Bool :=
  match c.primaryState with
  | .off => false
  | .on => true
  | .flash1 => if flashDue cfg.flash1Period S then !c.lampOn else c.lampOn
  | .flash2 => if flashDue cfg.flash2Period S then !c.lampOn else c.lampOn

/-- ENCODE_CELL (R130): the lamp bit goes into the record and into the transmit buffer. -/
def encodeCell (S : ScanCount) (s : State) (p : Nat) : State :=
  { s.cellWrite p { s.cellRead p with lampOn := lampFor s.cfg S (s.cellRead p) } with
    tx := txWrite s.tx p (lampFor s.cfg S (s.cellRead p)) }

/-- The encode pass (R135, R136): every cell in ascending order, all with the value of `sc` at the start. -/
def encodePass (s : State) : State := (List.range s.cfg.nCells).foldl (encodeCell s.sc) s

end Sys2Proof.Machine
end

