-- ==== Sys2Proof/Machine/InputDecoder.lean ====
section
/-! DEFINITION. The edge detector, hold detector and event generator (42_input_decoder.md). DECODE_CELL is written
in the source's eight steps; a step that can append an event answers the record and the snapshots it appends. -/

namespace Sys2Proof.Machine

/-- Step 3 (R154): the press counter. -/
def Cell.countPress (c : Cell) (pressed : Bool) : Cell :=
  { c with consecutivePressedScans := pressCount pressed c.consecutivePressedScans }

/-- Step 5 (R158): on an edge, with `notify_on_change`, `hold_event_pending` is cleared and then a snapshot taken. -/
def Cell.changeEvent (c : Cell) (edge : Bool) : Cell × List Cell :=
  if c.notifyOnChange && edge then
    ({ c with holdEventPending := false }, [{ c with holdEventPending := false }])
  else (c, [])

/-- Step 6 (R159): while held, with `notify_on_hold`, `hold_event_pending` is set and then a snapshot taken. -/
def Cell.holdEvent (c : Cell) (hold : Bool) : Cell × List Cell :=
  if c.notifyOnHold && hold then
    ({ c with holdEventPending := true }, [{ c with holdEventPending := true }])
  else (c, [])

/-- Step 7 (R160): a down edge toggles the primary state, with `toggle_mode`. -/
def Cell.toggleOn (c : Cell) (down : Bool) : Cell :=
  if c.toggleMode && down then { c with primaryState := toggle c.primaryState } else c

/-- Step 8 (R162): the edge memory takes this scan's pressed value. -/
def Cell.remember (c : Cell) (pressed : Bool) : Cell := { c with lastScanPressed := pressed }

/-- Steps 2 to 8 of DECODE_CELL on one record (R150, R157): the record afterwards and the events it appended. -/
def Cell.scan (threshold : Nat) (pressed : Bool) (c : Cell) : Cell × List Cell :=
  let down := isDown pressed c.lastScanPressed
  let up := isUp pressed c.lastScanPressed
  let c3 := c.countPress pressed
  let hold := isHold threshold c3.consecutivePressedScans
  let r5 := c3.changeEvent (down || up)
  let r6 := r5.1.holdEvent hold
  ((r6.1.toggleOn down).remember pressed, r5.2 ++ r6.2)

/-- DECODE_CELL (R150): the record of cell `p` and the scan's event list. -/
def decodeCell (rx : List Byte) (r : State × List Cell) (p : Nat) : State × List Cell :=
  let out := (r.1.cellRead p).scan r.1.cfg.holdThreshold (pressed rx p)
  (r.1.cellWrite p out.1, r.2 ++ out.2)

/-- The decode pass (R163): every cell in ascending order, with one event list that starts empty. -/
def decodePass (rx : List Byte) (s : State) : State × List Cell :=
  (List.range s.cfg.nCells).foldl (decodeCell rx) (s, [])

end Sys2Proof.Machine
end

