-- ==== Sys2Proof/Machine/Scan.lean ====
section
/-! DEFINITION. RUN_SCAN (43_scan_controller.md R182): the issue step, which is the instruction's meaning, and the
completion step, which the block takes when the transport has answered. -/

namespace Sys2Proof.Machine

/-- The issue step (R183): the encode pass, then the reversed bytes go to the transport as one Exchange call. -/
def State.issueScan (s : State) : State :=
  let e := encodePass s
  { e with linkOut := e.linkOut ++ [reverseBytes e.tx], phase := .xferWait }

/-- The completion step on a successful exchange (R184): the decode pass, then the scan counter, then the events and
DONE with the scan value the encode pass used. -/
def State.finishScan (s : State) (linkIn : List Byte) : State :=
  let d := decodePass (reverseBytes linkIn) s
  let t := { d.1 with sc := wrapInc32 d.1.sc }
  { t.emit (d.2.map snapshotWord ++ [doneWord (BitVec.ofNat 16 d.2.length) s.sc]) with phase := .idle }

/-- The reason reported for an answer of the wrong length (R194). -/
def wrongLengthReason : Byte := 0xFF

/-- The completion step (R184, R185, R194): one next state for every answer (R195). -/
def State.completeScan (s : State) (a : Answer) : State :=
  match a with
  | .fail reason => s.raise (.transportError reason)
  | .ok bytes =>
    if bytes.length = s.cfg.nb then s.finishScan bytes else s.raise (.transportError wrongLengthReason)

/-- The meaning of RUN_SCAN, with the checks in front of every command (R181): its issue step. The completion step is
the block's next move once the transport has answered (`State.turn`, log entry 7). -/
def execRunScan (s : State) : Host.Outcome State Fault Refusal := .next (s.accept State.issueScan)

end Sys2Proof.Machine
end

