-- ==== Sys2Proof/Machine/Dispatch.lean ====
section
/-! DEFINITION. The dispatch of a decoded command to its meaning (43_scan_controller.md R181). -/

namespace Sys2Proof.Machine

def exec (i : Instr) (s : State) : Host.Outcome State Fault Refusal :=
  match i with
  | .setCell pos cb count => Sys2Proof.Machine.execSetCell pos cb count s
  | .getCell pos => Sys2Proof.Machine.execGetCell pos s
  | .runScan => Sys2Proof.Machine.execRunScan s

end Sys2Proof.Machine
end

