-- ==== Sys2Proof/Machine/Step.lean ====
section
/-! DEFINITION. One step of the block. -/

namespace Sys2Proof.Machine

/-- One step: what the block's next move says (`State.turn`). An accepted word is decoded and dispatched (R181). -/
def step (s : State) : Host.Outcome State Fault Refusal :=
  match s.turn with
  | .reset c => .next (s.takeReset c)
  | .complete a => .next (s.takeAnswer.completeScan a)
  | .hang => .next s.tick
  | .accept w =>
    match decode w with
    | .ok i => exec i s.takeCommand
    | .error _ => .next s.takeCommand.refuseIllegal
  | .rest => .next s.tick

/-- The state in which the next step accepts the command word `w` (its low `nbits` bits, every bit above them 0):
the host offers it first, no scan is in progress and that step sees no reset (log entry 6). -/
def State.withFetchWord (s : State) (nbits w : Nat) : State :=
  { s with
    commands := BitVec.ofNat 64 (w % 2 ^ nbits) :: s.commands
    phase := .idle
    resets := none :: s.resets }

end Sys2Proof.Machine
end

