-- ==== Sys2Proof/Machine/Pseudo.lean ====
section
/-! DEFINITION. The host's pseudo-instructions (30_encoding.md R99): the command words the host computes from the
SNAPSHOT word `r` that its GET_CELL returned. The block executes each as the separate commands of its expansion. -/

namespace Sys2Proof.Machine

/-- The flags of an assembler line (R97), at most the five of a SET_CELL's cell byte that have syntax. -/
structure FlagSet where
  toggle : Bool := false
  notifyChange : Bool := false
  notifyHold : Bool := false
  holdPending : Bool := false
  lastPressed : Bool := false
  deriving DecidableEq, Repr

/-- The cell byte of a state and flags; the assembler writes 0 in its `lamp_on` bit (R97). -/
def FlagSet.cellByte (f : FlagSet) (s : PrimaryState) : CellByte :=
  { primaryState := s
    lampOn := false
    toggleMode := f.toggle
    notifyOnChange := f.notifyChange
    notifyOnHold := f.notifyHold
    holdEventPending := f.holdPending
    lastScanPressed := f.lastPressed }

/-- A set of behaviour flags, with nothing of the event memory: the `<flags>` of SET_FLAGS and of CONFIGURE (R99). -/
def FlagSet.behaviour (toggle notifyChange notifyHold : Bool) : FlagSet :=
  { toggle := toggle, notifyChange := notifyChange, notifyHold := notifyHold }

/-- The three behaviour flags as they stand in a cell byte (R80). -/
def behaviourBits (toggle notifyChange notifyHold : Bool) : Byte :=
  ((FlagSet.behaviour toggle notifyChange notifyHold).cellByte .off).bits

/-- `WRITE_BACK r` (R99). -/
def writeBackWord (r : Word) : Word := (r &&& 0x0000FFFFFFFFFF00#64) ||| 1#64

/-- The second command of `SET_STATE <pos>, <state>` (R99). -/
def setStateWord (r : Word) (s : PrimaryState) : Word :=
  (r &&& 0x0000FFFFFFFFFC00#64) ||| (s.code.zeroExtend 64 <<< 8) ||| 1#64

/-- The second command of `SET_FLAGS <pos>, <flags>` (R99). -/
def setFlagsWord (r : Word) (toggle notifyChange notifyHold : Bool) : Word :=
  (r &&& 0x0000FFFFFFFFC700#64) ||| ((behaviourBits toggle notifyChange notifyHold).zeroExtend 64 <<< 8) ||| 1#64

/-- The second command of `CLEAR_HOLD <pos>` (R99). -/
def clearHoldWord (r : Word) : Word := (r &&& 0x00000000FFFFFF00#64) ||| 1#64

/-- `CONFIGURE <pos>, <state>, <flags>` (R99): SET_CELL with COUNT = 0. It sets `hold_event_pending` and
`last_scan_pressed` to 0 (R99, 70_reset_and_hazards.md R250), so its `<flags>` are behaviour flags only. -/
def configureWord (pos : Half) (s : PrimaryState) (toggle notifyChange notifyHold : Bool) : Word :=
  encode (.setCell pos ((FlagSet.behaviour toggle notifyChange notifyHold).cellByte s) 0)

/-- The first command of SET_STATE, SET_FLAGS and CLEAR_HOLD (R99). -/
def readBeforeWord (pos : Half) : Word := encode (.getCell pos)

end Sys2Proof.Machine
end

