-- ==== Sys2Proof/Machine/Assembler.lean ====
section
/-! DEFINITION. The assembler syntax of commands (30_encoding.md R97) and the notation of responses (R98). Neither
is part of the block: they are the host's way to write what it sends and gets. What R97 leaves open about the text
itself is log entry 8. -/

namespace Sys2Proof.Machine

/-- A line of R97. -/
inductive AsmLine where
  | setCell (pos : Half) (state : PrimaryState) (flags : FlagSet) (count : Half)
  | getCell (pos : Half)
  | runScan
  | word64 (w : Word)
  deriving DecidableEq, Repr

/-- The command word a line assembles to (R97, by R82 and R84). -/
def AsmLine.word : AsmLine → Word
  | .setCell pos state flags count => encode (.setCell pos (flags.cellByte state) count)
  | .getCell pos => encode (.getCell pos)
  | .runScan => encode .runScan
  | .word64 w => w

/-! ### Reading a line -/

/-- A word of text, or one of the two punctuation marks of R97. -/
inductive Token where
  | text (cs : List Char)
  | comma
  | bar
  deriving DecidableEq, Repr

/-- The token list with the characters read so far, if any, put in front. -/
def flushText (cur : List Char) (rest : List Token) : List Token :=
  if cur = [] then rest else .text cur.reverse :: rest

/-- The tokens of a line; `cur` holds the characters of the current word, the last one first. A `;` ends the line. -/
def tokensOf (cur : List Char) : List Char → List Token
  | [] => flushText cur []
  | c :: cs =>
    if c = ';' then flushText cur []
    else if c = ',' then flushText cur (.comma :: tokensOf [] cs)
    else if c = '|' then flushText cur (.bar :: tokensOf [] cs)
    else if c = ' ' ∨ c = '\t' then flushText cur (tokensOf [] cs)
    else tokensOf (c :: cur) cs

/-- The value of a digit, below the base; hexadecimal digits in either case (DESIGN CHOICE, log entry 8). -/
def digitValue (base : Nat) (c : Char) : Option Nat :=
  let n := c.toNat
  let v :=
    if 48 ≤ n ∧ n ≤ 57 then n - 48
    else if 65 ≤ n ∧ n ≤ 70 then n - 55
    else if 97 ≤ n ∧ n ≤ 102 then n - 87
    else base
  if v < base then some v else none

/-- What follows the first digits of a numeral, of value `acc`: more digits, most significant first. DESIGN CHOICE (log
entry 8): R97 does not mention underscores; one underscore between two digits is skipped, as 95_test_vectors.md writes
hexadecimal words, and any other underscore makes the text no numeral. -/
def digitsValue (base : Nat) (acc : Nat) : List Char → Option Nat
  | [] => some acc
  | '_' :: c :: cs =>
    match digitValue base c with
    | some d => digitsValue base (acc * base + d) cs
    | none => none
  | c :: cs =>
    match digitValue base c with
    | some d => digitsValue base (acc * base + d) cs
    | none => none

/-- The value of a numeral: it starts with a digit. -/
def numeralValue (base : Nat) : List Char → Option Nat
  | [] => none
  | c :: cs =>
    match digitValue base c with
    | some d => digitsValue base d cs
    | none => none

/-- The value of a decimal or `0x` hexadecimal literal. -/
def literalValue : List Char → Option Nat
  | '0' :: 'x' :: cs => numeralValue 16 cs
  | cs => numeralValue 10 cs

/-- A literal of at most 16 bits: `<pos>` or `<count>` of R97. -/
def halfLiteral (cs : List Char) : Option Half :=
  match literalValue cs with
  | some n => if n < 2 ^ 16 then some (BitVec.ofNat 16 n) else none
  | none => none

/-- The 64-bit hexadecimal literal of `.word64` (R97). -/
def wordLiteral : List Char → Option Word
  | '0' :: 'x' :: cs =>
    match numeralValue 16 cs with
    | some n => if n < 2 ^ 64 then some (BitVec.ofNat 64 n) else none
    | none => none
  | _ => none

/-- `<state>` of R97. -/
def stateNamed (cs : List Char) : Option PrimaryState :=
  if cs = "OFF".toList then some .off
  else if cs = "ON".toList then some .on
  else if cs = "FLASH1".toList then some .flash1
  else if cs = "FLASH2".toList then some .flash2
  else none

/-- The flags with the named one added (R97). -/
def FlagSet.withNamed (f : FlagSet) (cs : List Char) : Option FlagSet :=
  if cs = "TOGGLE".toList then some { f with toggle := true }
  else if cs = "NOTIFY_CHANGE".toList then some { f with notifyChange := true }
  else if cs = "NOTIFY_HOLD".toList then some { f with notifyHold := true }
  else if cs = "HOLD_PENDING".toList then some { f with holdPending := true }
  else if cs = "LAST_PRESSED".toList then some { f with lastPressed := true }
  else none

/-- One or more flag names joined by `|`, up to the comma that ends them, and what follows the comma. A name that
stands twice counts once (DESIGN CHOICE, log entry 8). -/
def flagNames (f : FlagSet) : List Token → Option (FlagSet × List Token)
  | .text cs :: .bar :: rest =>
    match f.withNamed cs with
    | some g => flagNames g rest
    | none => none
  | .text cs :: .comma :: rest =>
    match f.withNamed cs with
    | some g => some (g, rest)
    | none => none
  | _ => none

/-- `<flags>` of R97: `0`, or names joined by `|`; and what follows the comma after it. -/
def flagsField : List Token → Option (FlagSet × List Token)
  | .text ['0'] :: .comma :: rest => some ({}, rest)
  | ts => flagNames {} ts

/-- The operands of SET_CELL (R97). -/
def setCellLine : List Token → Option AsmLine
  | .text p :: .comma :: .text st :: .comma :: rest =>
    match halfLiteral p, stateNamed st, flagsField rest with
    | some pos, some state, some (flags, [.text n]) =>
      match halfLiteral n with
      | some count => some (.setCell pos state flags count)
      | none => none
    | _, _, _ => none
  | _ => none

/-- What a line of text is. -/
inductive ParsedLine where
  /-- only white space or a comment -/
  | blank
  | command (l : AsmLine)
  /-- not a line of R97 -/
  | notALine
  deriving DecidableEq, Repr

/-- The line that a list of tokens is (R97). -/
def lineOfTokens : List Token → Option AsmLine
  | .text m :: ts =>
    if m = "SET_CELL".toList then setCellLine ts
    else if m = "GET_CELL".toList then
      match ts with
      | [.text p] => (halfLiteral p).map .getCell
      | _ => none
    else if m = "RUN_SCAN".toList then if ts = [] then some .runScan else none
    else if m = ".word64".toList then
      match ts with
      | [.text w] => (wordLiteral w).map .word64
      | _ => none
    else none
  | _ => none

/-- Read one line of R97. -/
def parseLine (text : String) : ParsedLine :=
  match tokensOf [] text.toList with
  | [] => .blank
  | ts =>
    match lineOfTokens ts with
    | some l => .command l
    | none => .notALine

/-! ### Writing a response -/

/-- A hexadecimal digit, in capitals. -/
def hexDigit (n : Nat) : String :=
  String.singleton (Char.ofNat (if n < 10 then n + 48 else n + 55))

/-- A byte as R98's examples in 95_test_vectors.md write one: `0x` and two digits. -/
def hexByte (b : Byte) : String := "0x" ++ hexDigit (b.toNat / 16) ++ hexDigit (b.toNat % 16)

/-- The name of a primary state (R97). -/
def stateName : PrimaryState → String
  | .off => "OFF"
  | .on => "ON"
  | .flash1 => "FLASH1"
  | .flash2 => "FLASH2"

/-- The names of the flags that are set, in the order of R97. -/
def flagNamesOf (b : CellByte) : List String :=
  (if b.toggleMode then ["TOGGLE"] else []) ++ (if b.notifyOnChange then ["NOTIFY_CHANGE"] else []) ++
    (if b.notifyOnHold then ["NOTIFY_HOLD"] else []) ++ (if b.holdEventPending then ["HOLD_PENDING"] else []) ++
    (if b.lastScanPressed then ["LAST_PRESSED"] else [])

/-- Strings joined by `|`. -/
def joinBar : List String → String
  | [] => ""
  | [x] => x
  | x :: xs => x ++ "|" ++ joinBar xs

/-- A cell byte as a SNAPSHOT line writes it: the state, the flags if any, and LAMP if lit (R98). -/
def cellByteText (b : CellByte) : String :=
  stateName b.primaryState ++ (if flagNamesOf b = [] then "" else " " ++ joinBar (flagNamesOf b)) ++
    (if b.lampOn then " LAMP" else "")

/-- A response word in the notation of R98, read by its KIND (R90); none for a word the block never produces. -/
def responseText (w : Word) : Option String :=
  let kind := w.extractLsb' 0 4
  if kind = 0x0 then
    some ("DONE k=" ++ Nat.repr (w.extractLsb' 16 16).toNat ++ " s=" ++ Nat.repr (w.extractLsb' 32 32).toNat)
  else if kind = 0x1 then
    some ("SNAPSHOT id=" ++ Nat.repr (posField w).toNat ++ " " ++ cellByteText (CellByte.ofBits (cbField w)) ++
      " count=" ++ Nat.repr (countField w).toNat)
  else if kind = 0x8 then some ("ERR_INDEX pos=" ++ Nat.repr (posField w).toNat)
  else if kind = 0x9 then some ("ERR_TRANSPORT reason=" ++ hexByte (cbField w))
  else if kind = 0xA then some "ERR_CONFIG"
  else if kind = 0xB then some "ERR_ILLEGAL"
  else none

end Sys2Proof.Machine
end

