-- ==== Sys2Proof/Safety.lean ====
section
/-! DEFINITION. What a consistent state is, and the vocabulary the statements share. -/

namespace Sys2Proof.Machine

/-- `id` = position, for exactly N_CELLS cells (10_state.md R32, R40). -/
abbrev State.IdsArePositions (s : State) : Prop :=
  s.cells.map Cell.id = (List.range s.cfg.nCells).map (BitVec.ofNat 16)

/-- The transmit buffer is PACK of the lamp bits, its padding 0 (10_state.md R42, R43). -/
abbrev State.TxIsPacked (s : State) : Prop :=
  s.tx = (List.range s.cfg.nb).map (pack s.cfg.nCells s.cells)

/-- `cfg_fault` says whether the configuration is malformed (10_state.md R45). -/
abbrev State.FaultBitMatches (s : State) : Prop := s.cfgFault = s.cfg.malformed

/-- A block with a malformed configuration is as reset left it: no scan ever happens (70_reset_and_hazards.md R241). -/
abbrev State.FaultyIsInert (s : State) : Prop :=
  s.cfgFault = true →
    s.phase = .idle ∧ s.sc = 0 ∧ s.cells = (List.range s.cfg.nCells).map Cell.initial

/-- The invariant of the block: what holds after reset and after every step. -/
abbrev State.Inv (s : State) : Prop :=
  s.IdsArePositions ∧ s.TxIsPacked ∧ s.FaultBitMatches ∧ s.FaultyIsInert

/-- No reset is active in the coming step. -/
abbrev State.NoReset (s : State) : Prop := s.resets.head?.join = none

/-- The block can run a command: it is `IDLE` and its configuration is well formed (43_scan_controller.md R180, R181). -/
abbrev State.Ready (s : State) : Prop := s.phase = .idle ∧ s.cfgFault = false

/-- The next step accepts the command word `w` (43_scan_controller.md R180). -/
abbrev State.WillAccept (s : State) (w : Word) : Prop :=
  s.NoReset ∧ s.phase = .idle ∧ s.commands.head? = some w

/-- The next step completes a scan with the transport's answer `a` (43_scan_controller.md R184, R185). -/
abbrev State.WillComplete (s : State) (a : Answer) : Prop :=
  s.NoReset ∧ s.phase = .xferWait ∧ s.answers.head? = some a

/-- The block's own state is the same: all but the ports (10_state.md). -/
abbrev State.SameBlock (s t : State) : Prop :=
  t.cfg = s.cfg ∧ t.cells = s.cells ∧ t.sc = s.sc ∧ t.tx = s.tx ∧ t.phase = s.phase ∧ t.cfgFault = s.cfgFault

end Sys2Proof.Machine
end

