-- ==== Sys2Proof/Certificates/Slice0/Obligations.lean ====
section
/-! DEFINITION. The statements for the provers. Each docstring names the rules of spec/ it rests on. Where a
statement's Lean speaks of the queue of offered commands, of the answers to come, of the reset input or of the words
delivered, it speaks of the MODEL's ports (log entries 2 to 5). -/

open Sys2Proof Sys2Proof.Machine

/-! ### Encoding -/

/-- R82 to R85: every command's encoding decodes to that command, with every operand at every value. -/
def Obligations.DecodingAnEncodingGivesTheCommand : Prop :=
  ∀ i : Instr, decode (encode i) = .ok i

/-- R82 to R86: a word that is not Illegal is the encoding of what it decodes to, so no two words mean the same. -/
def Obligations.ALegalWordIsItsCommandsEncoding : Prop :=
  ∀ (w : Word) (i : Instr), decode w = .ok i → encode i = w

/-- R85, R86: a word is Illegal exactly when a reserved field is not 0, its opcode is reserved, or a field that its
opcode must leave at 0 is not 0; the fields are read as numbers. -/
def Obligations.IllegalWordsAreExactlyTheReservedOnes : Prop :=
  ∀ w : Word, (∃ r, decode w = .error r) ↔
    w.toNat / 2 ^ 4 % 2 ^ 4 ≠ 0 ∨ w.toNat / 2 ^ 48 ≠ 0 ∨
    w.toNat % 2 ^ 4 = 0 ∨ 4 ≤ w.toNat % 2 ^ 4 ∨
    (w.toNat % 2 ^ 4 = 2 ∧ (w.toNat / 2 ^ 8 % 2 ^ 8 ≠ 0 ∨ w.toNat / 2 ^ 32 % 2 ^ 16 ≠ 0)) ∨
    (w.toNat % 2 ^ 4 = 3 ∧ w.toNat / 2 ^ 8 % 2 ^ 40 ≠ 0)

/-- R80, R82, R83, R85: the operands a SET_CELL word decodes to are its fields as they stand. -/
def Obligations.SetCellOperandsAreTheWordsFields : Prop :=
  ∀ (w : Word) (pos count : Half) (cb : CellByte), decode w = .ok (.setCell pos cb count) →
    pos.toNat = w.toNat / 2 ^ 16 % 2 ^ 16 ∧ count.toNat = w.toNat / 2 ^ 32 % 2 ^ 16 ∧
    cb.primaryState.code.toNat = w.toNat / 2 ^ 8 % 2 ^ 2 ∧
    cb.lampOn = w.getLsbD 10 ∧ cb.toggleMode = w.getLsbD 11 ∧ cb.notifyOnChange = w.getLsbD 12 ∧
    cb.notifyOnHold = w.getLsbD 13 ∧ cb.holdEventPending = w.getLsbD 14 ∧ cb.lastScanPressed = w.getLsbD 15

/-- R82 to R86: command words written out from the spec's encodings decode to the commands they stand for, and
Illegal words to Illegal. The reason names `reservedOpcode`, `unusedField` and `reservedField` are the model's
choice (log entry 14): the spec's decoder answers Illegal alone. -/
def Obligations.SpecWordsDecodeAsWritten : Prop :=
  decode 0x0000000000053801 = .ok (.setCell 5 ⟨.off, false, true, true, true, false, false⟩ 0) ∧
  decode 0x0000FFFF0013FB01 = .ok (.setCell 19 ⟨.flash2, false, true, true, true, true, true⟩ 0xFFFF) ∧
  decode 0x00001234012C1101 = .ok (.setCell 300 ⟨.on, false, false, true, false, false, false⟩ 0x1234) ∧
  decode 0x0000000000030002 = .ok (.getCell 3) ∧
  decode 0x0000000000000003 = .ok .runScan ∧
  decode 0x0000000000000000 = .error .reservedOpcode ∧
  decode 0x0000000100050002 = .error .unusedField ∧
  decode 0x0001000000000101 = .error .reservedField

/-- R81: the codes of the four primary states. -/
def Obligations.PrimaryStateCodes : Prop :=
  PrimaryState.off.code = 0b00#2 ∧ PrimaryState.on.code = 0b01#2 ∧ PrimaryState.flash1.code = 0b10#2 ∧
  PrimaryState.flash2.code = 0b11#2 ∧ (∀ k, (PrimaryState.ofCode k).code = k) ∧
  ∀ s : PrimaryState, PrimaryState.ofCode s.code = s

/-- R92: where each field of a record stands in its SNAPSHOT word. -/
def Obligations.SnapshotWordCarriesTheRecord : Prop :=
  ∀ c : Cell,
    (snapshotWord c).toNat % 2 ^ 4 = 1 ∧ (snapshotWord c).toNat / 2 ^ 4 % 2 ^ 4 = 0 ∧
    (snapshotWord c).toNat / 2 ^ 8 % 2 ^ 2 = c.primaryState.code.toNat ∧
    (snapshotWord c).getLsbD 10 = c.lampOn ∧ (snapshotWord c).getLsbD 11 = c.toggleMode ∧
    (snapshotWord c).getLsbD 12 = c.notifyOnChange ∧ (snapshotWord c).getLsbD 13 = c.notifyOnHold ∧
    (snapshotWord c).getLsbD 14 = c.holdEventPending ∧ (snapshotWord c).getLsbD 15 = c.lastScanPressed ∧
    (snapshotWord c).toNat / 2 ^ 16 % 2 ^ 16 = c.id.toNat ∧
    (snapshotWord c).toNat / 2 ^ 32 % 2 ^ 16 = c.consecutivePressedScans.toNat ∧
    (snapshotWord c).toNat / 2 ^ 48 = 0

/-- R90, R93, R94: DONE and the four error words as numbers. -/
def Obligations.DoneAndErrorWordsAsNumbers : Prop :=
  (∀ (k : Half) (s : ScanCount), (doneWord k s).toNat = s.toNat * 2 ^ 32 + k.toNat * 2 ^ 16) ∧
  (∀ p : Half, (ErrorKind.indexOutOfRange p).word.toNat = p.toNat * 2 ^ 16 + 8) ∧
  (∀ r : Byte, (ErrorKind.transportError r).word.toNat = r.toNat * 2 ^ 8 + 9) ∧
  ErrorKind.configError.word = 0x000000000000000A ∧ ErrorKind.illegalCommand.word = 0x000000000000000B

/-- From R82, R85 and R92 (the spec's own inference R95): a SNAPSHOT word, bit for bit, is the SET_CELL command that
writes the record back to its own position. -/
def Obligations.ASnapshotWordIsAWriteBackCommand : Prop :=
  ∀ c : Cell, decode (snapshotWord c) = .ok (.setCell c.id c.cellByte c.consecutivePressedScans)

/-- R99: the words of the pseudo-instructions WRITE_BACK, SET_STATE, SET_FLAGS and CLEAR_HOLD, computed from a
snapshot, are SET_CELLs of that snapshot with only the named fields replaced. -/
def Obligations.PseudoInstructionWordsReplaceOnlyTheirFields : Prop :=
  ∀ c : Cell,
    decode (writeBackWord (snapshotWord c)) = .ok (.setCell c.id c.cellByte c.consecutivePressedScans) ∧
    (∀ s, decode (setStateWord (snapshotWord c) s) =
      .ok (.setCell c.id { c.cellByte with primaryState := s } c.consecutivePressedScans)) ∧
    (∀ t n h, decode (setFlagsWord (snapshotWord c) t n h) =
      .ok (.setCell c.id { c.cellByte with toggleMode := t, notifyOnChange := n, notifyOnHold := h }
        c.consecutivePressedScans)) ∧
    decode (clearHoldWord (snapshotWord c)) = .ok (.setCell c.id c.cellByte 0)

/-- R97: one line of each form of the assembler's syntax reads as that line and assembles to its command word. That
the underscores in the literal of the `.word64` line are skipped, and how white space separates words, is the
model's choice (log entry 8). -/
def Obligations.AssemblerLinesAssembleAsWritten : Prop :=
  parseLine "SET_CELL 5, OFF, TOGGLE|NOTIFY_CHANGE|NOTIFY_HOLD, 0" =
    .command (.setCell 5 .off { toggle := true, notifyChange := true, notifyHold := true } 0) ∧
  (AsmLine.setCell 5 .off { toggle := true, notifyChange := true, notifyHold := true } 0).word = 0x0000000000053801 ∧
  parseLine "GET_CELL 0x13" = .command (.getCell 19) ∧ (AsmLine.getCell 19).word = 0x0000000000130002 ∧
  parseLine "RUN_SCAN ; one scan" = .command .runScan ∧ AsmLine.runScan.word = 0x0000000000000003 ∧
  parseLine ".word64 0x0000_0000_0000_0103" = .command (.word64 0x103) ∧ (AsmLine.word64 0x103).word = 0x103

/-! ### The registration commands -/

/-- R186, R87: SET_CELL, wherever it runs, replaces the seven fields of the cell it names and answers DONE; `id`,
`lamp_on`, every other cell and everything else of the state stay. -/
def Obligations.SetCellReplacesSevenFieldsAndNothingElse : Prop :=
  ∀ (s : State) (pos count : Half) (cb : CellByte), s.Ready → pos.toNat < s.cfg.nCells →
    exec (.setCell pos cb count) s = .next { s with
      cells := s.cells.modify pos.toNat fun c =>
        { id := c.id
          primaryState := cb.primaryState
          lampOn := c.lampOn
          toggleMode := cb.toggleMode
          notifyOnChange := cb.notifyOnChange
          notifyOnHold := cb.notifyOnHold
          holdEventPending := cb.holdEventPending
          lastScanPressed := cb.lastScanPressed
          consecutivePressedScans := count }
      responses := s.responses ++ [0x0000000000000000] }

/-- R188: GET_CELL, wherever it runs, answers the SNAPSHOT of the cell it names and changes nothing else. -/
def Obligations.GetCellAnswersTheSnapshotAndChangesNothing : Prop :=
  ∀ (s : State) (pos : Half) (c : Cell), s.Ready → pos.toNat < s.cfg.nCells → s.cells[pos.toNat]? = some c →
    exec (.getCell pos) s = .next { s with responses := s.responses ++ [snapshotWord c] }

/-- R187, R189, R211: a position past the chain is answered ERR_INDEX with POS, and nothing changes. -/
def Obligations.APositionPastTheChainIsAnsweredErrIndex : Prop :=
  ∀ (s : State) (pos count : Half) (cb : CellByte), s.Ready → s.cfg.nCells ≤ pos.toNat →
    exec (.setCell pos cb count) s =
      .next { s with responses := s.responses ++ [BitVec.ofNat 64 (pos.toNat * 2 ^ 16 + 8)] } ∧
    exec (.getCell pos) s =
      .next { s with responses := s.responses ++ [BitVec.ofNat 64 (pos.toNat * 2 ^ 16 + 8)] }

/-- R70, R186, R188: a GET_CELL right after a SET_CELL of the same position returns what was written, with the
cell's `id` and its old `lamp_on`. -/
def Obligations.GetCellAfterSetCellReadsWhatWasWritten : Prop :=
  ∀ (s t : State) (pos count : Half) (cb : CellByte) (c : Cell), s.Ready → pos.toNat < s.cfg.nCells →
    s.cells[pos.toNat]? = some c → exec (.setCell pos cb count) s = .next t →
    ∃ u, exec (.getCell pos) t = .next u ∧ u.cells = t.cells ∧
      u.responses = s.responses ++ [0, snapshotWord
        ⟨c.id, cb.primaryState, c.lampOn, cb.toggleMode, cb.notifyOnChange, cb.notifyOnHold, cb.holdEventPending,
          cb.lastScanPressed, count⟩]

/-- From R186 (the spec's own inference R68): SET_CELL twice leaves the block as SET_CELL once. -/
def Obligations.SetCellIsIdempotent : Prop :=
  ∀ (s t u : State) (pos count : Half) (cb : CellByte), exec (.setCell pos cb count) s = .next t →
    exec (.setCell pos cb count) t = .next u → t.SameBlock u

/-- R190: `getState` reads what `setState` wrote, and `setState` keeps every other field. -/
def Obligations.SetStateKeepsEveryOtherField : Prop :=
  ∀ (c : Cell) (s : PrimaryState), (c.setState s).getState = s ∧
    c.setState s = ⟨c.id, s, c.lampOn, c.toggleMode, c.notifyOnChange, c.notifyOnHold, c.holdEventPending,
      c.lastScanPressed, c.consecutivePressedScans⟩

/-- R99, R190: the pseudo-instruction SET_STATE, run on the block as its two commands, replaces the cell's primary
state and nothing else of any cell. -/
def Obligations.TheSetStateSequenceReplacesOnlyThePrimaryState : Prop :=
  ∀ (s : State) (pos : Half) (c : Cell) (st : PrimaryState) (ws : List Word), s.Inv → s.Ready → s.resets = [] →
    s.cells[pos.toNat]? = some c →
    s.commands = readBeforeWord pos :: setStateWord (snapshotWord c) st :: ws →
    core.run 2 s = .next { s with
      cells := s.cells.modify pos.toNat fun c => c.setState st
      commands := ws
      responses := s.responses ++ [snapshotWord c, 0] }

/-- R99, R186 (and the spec's own inference R250): the pseudo-instruction CONFIGURE, run on the block, gives the
cell the state and the three behaviour flags it names, sets `hold_event_pending`, `last_scan_pressed` and the
counter to 0, and changes no other field of any cell. -/
def Obligations.ConfigureSetsTheBehaviourAndClearsTheEventMemory : Prop :=
  ∀ (s : State) (pos : Half) (st : PrimaryState) (toggle change hold : Bool) (ws : List Word), s.NoReset → s.Ready →
    pos.toNat < s.cfg.nCells → s.commands = configureWord pos st toggle change hold :: ws →
    step s = .next { s with
      cells := s.cells.modify pos.toNat fun c =>
        { id := c.id
          primaryState := st
          lampOn := c.lampOn
          toggleMode := toggle
          notifyOnChange := change
          notifyOnHold := hold
          holdEventPending := false
          lastScanPressed := false
          consecutivePressedScans := 0 }
      commands := ws
      resets := s.resets.tail
      responses := s.responses ++ [0x0000000000000000] }

/-! ### Accepting commands, and errors -/

/-- R181: when the word the host offers decodes to a command, the step is that command's meaning on the state in
which the word has been taken from the host and one step of the reset input has passed. -/
def Obligations.AStepRunsTheDecodedCommand : Prop :=
  ∀ (s : State) (w : Word) (ws : List Word) (i : Instr), s.NoReset → s.phase = .idle → s.commands = w :: ws →
    decode w = .ok i → step s = exec i { s with commands := ws, resets := s.resets.tail }

/-- R86, R214: a word with a reserved opcode, or with a field that is not 0 where its opcode must leave it 0, is
answered ERR_ILLEGAL and changes nothing, with a well-formed configuration. -/
def Obligations.AnIllegalWordIsAnsweredErrIllegal : Prop :=
  ∀ (s : State) (w : Word) (ws : List Word), s.NoReset → s.Ready → s.commands = w :: ws →
    w.toNat / 2 ^ 4 % 2 ^ 4 ≠ 0 ∨ w.toNat / 2 ^ 48 ≠ 0 ∨ w.toNat % 2 ^ 4 = 0 ∨ 4 ≤ w.toNat % 2 ^ 4 ∨
      (w.toNat % 2 ^ 4 = 2 ∧ (w.toNat / 2 ^ 8 % 2 ^ 8 ≠ 0 ∨ w.toNat / 2 ^ 32 % 2 ^ 16 ≠ 0)) ∨
      (w.toNat % 2 ^ 4 = 3 ∧ w.toNat / 2 ^ 8 % 2 ^ 40 ≠ 0) →
    step s = .next { s with
      commands := ws
      resets := s.resets.tail
      responses := s.responses ++ [0x000000000000000B] }

/-- R213, R216: with `cfg_fault` = 1 every offered word, legal or not, is answered ERR_CONFIG and changes nothing. -/
def Obligations.AMalformedConfigurationAnswersEveryWordErrConfig : Prop :=
  ∀ (s : State) (w : Word) (ws : List Word), s.NoReset → s.phase = .idle → s.cfgFault = true →
    s.commands = w :: ws →
    step s = .next { s with
      commands := ws
      resets := s.resets.tail
      responses := s.responses ++ [0x000000000000000A] }

/-- R216: ERR_INDEX is answered only when the configuration is well formed and the word is a SET_CELL or GET_CELL
whose position is past the chain. -/
def Obligations.ErrIndexOnlyAfterTheOtherChecks : Prop :=
  ∀ (s t : State) (w : Word) (p : Half), s.WillAccept w → step s = .next t →
    t.responses = s.responses ++ [(ErrorKind.indexOutOfRange p).word] →
    s.cfgFault = false ∧ s.cfg.nCells ≤ p.toNat ∧
      ((∃ cb n, decode w = .ok (.setCell p cb n)) ∨ decode w = .ok (.getCell p))

/-- R180: while a scan waits no command is accepted. The words the host offers are the model's queue (log entry 2).
That they also stay offered in a step that resets the block is the model's choice (log entry 5), and that a
command's meaning leaves a waiting state as it is, the model's reading of R180 (log entry 7). -/
def Obligations.ACommandWaitsWhileAScanIsInProgress : Prop :=
  ∀ s : State, s.phase = .xferWait →
    (∀ i, exec i s = .next s) ∧ ∀ t, step s = .next t → t.commands = s.commands

/-! ### RUN_SCAN -/

/-- R183, R130, R122 and R124 (and the spec's own inferences R43 and R135): the issue step, wherever it runs: every
lamp bit as the encoder computes it with S = `sc`, the transmit buffer PACK of them, one Exchange call with the
reversed bytes, `XFER_WAIT`, and nothing else. -/
def Obligations.RunScanEncodesAndHandsTheBytesToTheTransport : Prop :=
  ∀ s : State, s.Inv → s.Ready →
    ∃ t, exec .runScan s = .next t ∧
      t.cells = s.cells.map (fun c => { c with lampOn := lampFor s.cfg s.sc c }) ∧
      t.tx = (List.range s.cfg.nb).map (pack s.cfg.nCells t.cells) ∧
      t.linkOut = s.linkOut ++ [t.tx.map rev8] ∧ t.phase = .xferWait ∧
      t.cfg = s.cfg ∧ t.sc = s.sc ∧ t.cfgFault = s.cfgFault ∧ t.commands = s.commands ∧ t.answers = s.answers ∧
      t.resets = s.resets ∧ t.responses = s.responses

/-- R131 to R134: the lamp bit RUN_SCAN gives a cell, by its primary state. -/
def Obligations.RunScanLampFollowsThePrimaryState : Prop :=
  ∀ (s t : State) (p : Nat) (c : Cell), s.Inv → s.Ready → s.cells[p]? = some c → exec .runScan s = .next t →
    ∃ d, t.cells[p]? = some d ∧
      (c.primaryState = .off → d.lampOn = false) ∧ (c.primaryState = .on → d.lampOn = true) ∧
      (c.primaryState = .flash1 →
        d.lampOn = if s.sc.toNat % s.cfg.flash1Period = 0 then !c.lampOn else c.lampOn) ∧
      (c.primaryState = .flash2 →
        d.lampOn = if s.sc.toNat % s.cfg.flash2Period = 0 then !c.lampOn else c.lampOn)

/-- R62, R64: the padding bits of the bytes handed to the transport are 0. -/
def Obligations.PaddingIsSentAsZero : Prop :=
  ∀ (s t : State) (q : Nat), s.Inv → s.Ready → exec .runScan s = .next t → s.cfg.nCells ≤ q →
    ∃ out, t.linkOut = s.linkOut ++ [out] ∧ out.length = s.cfg.nb ∧
      (out.getD (q / 8) 0).getLsbD (7 - q % 8) = false

/-- R184, R151, R152, R154, R155, R158 to R160, R162: the record a successful scan leaves. The sample of cell `p` is
bit `7 − p mod 8` of link byte `p div 8`, a 0 being a press. -/
def Obligations.ASuccessfulScanLeavesEachRecordAsTheEightStepsSay : Prop :=
  ∀ (s : State) (bytes : List Byte) (p : Nat) (c : Cell), s.Inv → s.WillComplete (.ok bytes) →
    bytes.length = s.cfg.nb → s.cells[p]? = some c →
    ∃ t press count hold change, step s = .next t ∧
      press = !(bytes.getD (p / 8) 0).getLsbD (7 - p % 8) ∧
      count = (if press then min (c.consecutivePressedScans.toNat + 1) 0xFFFF else 0) ∧
      hold = (c.notifyOnHold && decide (s.cfg.holdThreshold < count)) ∧
      change = (c.notifyOnChange && (press != c.lastScanPressed)) ∧
      t.cells[p]? = some
        { id := c.id
          primaryState :=
            if c.toggleMode && press && !c.lastScanPressed then
              (if c.primaryState = .off then .on else .off) else c.primaryState
          lampOn := c.lampOn
          toggleMode := c.toggleMode
          notifyOnChange := c.notifyOnChange
          notifyOnHold := c.notifyOnHold
          holdEventPending := hold || (!change && c.holdEventPending)
          lastScanPressed := press
          consecutivePressedScans := BitVec.ofNat 16 count }

/-- R184, R150, R157, R158, R159, R163 (and the spec's own inference R161, what an event's copy holds): what a
successful scan delivers and what else it changes. The events stand in ascending order of position, a cell's change
event before its hold event, each a copy of the record as it stood: the new count, the old edge memory and primary
state; then DONE with their number and the scan value. -/
def Obligations.ASuccessfulScanDeliversItsEventsThenDone : Prop :=
  ∀ (s : State) (bytes : List Byte), s.Inv → s.WillComplete (.ok bytes) → bytes.length = s.cfg.nb →
    ∃ t events, step s = .next t ∧
      events = ((List.range s.cfg.nCells).zip s.cells).flatMap (fun pc =>
        let press := !(bytes.getD (pc.1 / 8) 0).getLsbD (7 - pc.1 % 8)
        let count := if press then min (pc.2.consecutivePressedScans.toNat + 1) 0xFFFF else 0
        (if pc.2.notifyOnChange && (press != pc.2.lastScanPressed) then
          [{ pc.2 with holdEventPending := false, consecutivePressedScans := BitVec.ofNat 16 count }] else []) ++
        (if pc.2.notifyOnHold && decide (s.cfg.holdThreshold < count) then
          [{ pc.2 with holdEventPending := true, consecutivePressedScans := BitVec.ofNat 16 count }] else [])) ∧
      t.responses = s.responses ++ events.map snapshotWord ++ [doneWord (BitVec.ofNat 16 events.length) s.sc] ∧
      t.sc = BitVec.ofNat 32 ((s.sc.toNat + 1) % 2 ^ 32) ∧ t.phase = .idle ∧
      t.cfg = s.cfg ∧ t.tx = s.tx ∧ t.cfgFault = s.cfgFault ∧ t.commands = s.commands ∧
      t.answers = s.answers.tail ∧ t.resets = s.resets.tail ∧ t.linkOut = s.linkOut

/-- R185, R212: a failed exchange is answered ERR_TRANSPORT with the transport's reason; no decode runs and nothing
else changes, so the issue step's lamp bits stay. -/
def Obligations.AFailedExchangeChangesNothingButThePhase : Prop :=
  ∀ (s : State) (reason : Byte), s.WillComplete (.fail reason) →
    step s = .next { s with
      phase := .idle
      answers := s.answers.tail
      resets := s.resets.tail
      responses := s.responses ++ [BitVec.ofNat 64 (reason.toNat * 2 ^ 8 + 9)] }

/-- R194: an answer of the wrong length is treated as `fail(0xFF)`. -/
def Obligations.AnAnswerOfTheWrongLengthIsAFailure : Prop :=
  ∀ (s : State) (bytes : List Byte) (rest : List Answer), s.NoReset → s.phase = .xferWait →
    bytes.length ≠ s.cfg.nb →
    step { s with answers := .ok bytes :: rest } = step { s with answers := .fail 0xFF :: rest }

/-- R254: if the transport never answers, the block stays as it is for ever, however many steps it takes. -/
def Obligations.WithoutAnAnswerTheScanWaitsForEver : Prop :=
  ∀ (s : State) (k : Nat), s.phase = .xferWait → s.answers = [] → s.resets = [] → core.run k s = .next s

/-- R182, R191: a whole RUN_SCAN with a transport that answers: issue step and completion step leave each cell
encoded and then decoded, the scan counter advanced, the block `IDLE`, and one call made; they deliver the SNAPSHOT
words of the events that decoding the encoded cells appends, in ascending order of position, then DONE with their
number and the scan value. -/
def Obligations.AWholeScanEncodesThenDecodesEveryCell : Prop :=
  ∀ (s : State) (bytes : List Byte) (ws : List Word) (rest : List Answer), s.Inv → s.Ready → s.resets = [] →
    s.commands = 0x0000000000000003 :: ws → s.answers = .ok bytes :: rest → bytes.length = s.cfg.nb →
    ∃ t scanned events, core.run 2 s = .next t ∧
      scanned = s.cells.mapIdx (fun p c =>
        Cell.scan s.cfg.holdThreshold (!(bytes.getD (p / 8) 0).getLsbD (7 - p % 8))
          { c with lampOn := lampFor s.cfg s.sc c }) ∧
      t.cells = scanned.map Prod.fst ∧ events = scanned.flatMap Prod.snd ∧
      t.responses = s.responses ++ events.map snapshotWord ++ [doneWord (BitVec.ofNat 16 events.length) s.sc] ∧
      t.sc = s.sc + 1 ∧ t.phase = .idle ∧ t.commands = ws ∧ t.answers = rest ∧
      ∃ out, t.linkOut = s.linkOut ++ [out] ∧ out.length = s.cfg.nb

/-- R185, R192, R219: a whole RUN_SCAN whose exchange fails keeps the encode pass's writes to `lamp_on` and `tx` and
leaves everything else of the block as it was before the command. -/
def Obligations.AFailedScanKeepsOnlyTheEncodePass : Prop :=
  ∀ (s : State) (reason : Byte) (ws : List Word) (rest : List Answer), s.Inv → s.Ready → s.resets = [] →
    s.commands = 0x0000000000000003 :: ws → s.answers = .fail reason :: rest →
    ∃ t, core.run 2 s = .next t ∧
      t.cells = s.cells.map (fun c => { c with lampOn := lampFor s.cfg s.sc c }) ∧
      t.tx = (List.range s.cfg.nb).map (pack s.cfg.nCells t.cells) ∧
      t.cfg = s.cfg ∧ t.sc = s.sc ∧ t.phase = s.phase ∧ t.cfgFault = s.cfgFault ∧ t.commands = ws ∧
      t.answers = rest ∧ t.responses = s.responses ++ [BitVec.ofNat 64 (reason.toNat * 2 ^ 8 + 9)]

/-- From R130 and R185 (the spec's own inferences R140, R248): after a failed scan a retry's encode pass gives every
Flash cell whose period divides `sc` the lamp bit it had before the failed scan, and any other cell the one the
first encode pass gave. -/
def Obligations.ARetriedScanUndoesTheFlashToggle : Prop :=
  ∀ (s : State) (reason : Byte) (ws : List Word) (rest : List Answer), s.Inv → s.Ready → s.resets = [] →
    s.commands = 0x0000000000000003 :: 0x0000000000000003 :: ws → s.answers = .fail reason :: rest →
    ∃ t, core.run 3 s = .next t ∧ t.phase = .xferWait ∧
      t.cells = s.cells.map (fun c =>
        if (c.primaryState = .flash1 ∧ s.sc.toNat % s.cfg.flash1Period = 0) ∨
          (c.primaryState = .flash2 ∧ s.sc.toNat % s.cfg.flash2Period = 0)
        then c else { c with lampOn := lampFor s.cfg s.sc c })

/-- From R122, R124 and R125 (the spec's own inference in R127): a transport that echoes its input makes every lit
lamp's cell read released and every dark lamp's cell read pressed: that is what the edge memory holds after the
scan. -/
def Obligations.AnEchoingTransportPressesTheDarkCells : Prop :=
  ∀ (s : State) (out : List Byte) (outs : List (List Byte)), s.Inv → s.phase = .xferWait → s.NoReset →
    s.linkOut = outs ++ [out] → out = s.tx.map rev8 → s.answers.head? = some (.ok out) →
    ∃ t, step s = .next t ∧ t.cells.map Cell.lastScanPressed = s.cells.map (fun c => !c.lampOn)

/-- R62: the padding bits of an answer are ignored: two answers that agree on the chain's bits give the same step. -/
def Obligations.ReceivedPaddingChangesNothing : Prop :=
  ∀ (s : State) (a b : List Byte) (rest : List Answer), s.NoReset → s.phase = .xferWait →
    a.length = s.cfg.nb → b.length = s.cfg.nb →
    (∀ p, p < s.cfg.nCells → (a.getD (p / 8) 0).getLsbD (7 - p % 8) = (b.getD (p / 8) 0).getLsbD (7 - p % 8)) →
    step { s with answers := .ok a :: rest } = step { s with answers := .ok b :: rest }

/-- R163: the events of a decode pass are in ascending order of `id`, and of two with the same `id` the change event
stands before the hold event. -/
def Obligations.EventsAscendAndAChangePrecedesAHold : Prop :=
  ∀ (s : State) (rx : List Byte), s.Inv → s.cfgFault = false →
    (decodePass rx s).2.Pairwise fun a b =>
      a.id.toNat < b.id.toNat ∨ (a.id = b.id ∧ a.holdEventPending = false ∧ b.holdEventPending = true)

/-- From R158 and R159 (the spec's own inference R164): a scan appends at most two events for any one cell, in all no
more than 2·N_CELLS and so never more than the DONE word's K can count, and none when no cell has a notify flag. -/
def Obligations.AtMostTwoEventsPerCell : Prop :=
  ∀ (s : State) (rx : List Byte), s.Inv → s.cfgFault = false →
    (∀ p : Half, (decodePass rx s).2.countP (fun e => e.id == p) ≤ 2) ∧
    (decodePass rx s).2.length ≤ 2 * s.cfg.nCells ∧ 2 * s.cfg.nCells ≤ 65534 ∧
    ((∀ c ∈ s.cells, c.notifyOnChange = false ∧ c.notifyOnHold = false) → (decodePass rx s).2 = [])

/-! ### The decoder and the encoder over several scans -/

/-- From R152 (the spec's own inference R153): the truth table of the edge detector. -/
def Obligations.EdgeDetectorTruthTable : Prop :=
  (isDown false false = false ∧ isUp false false = false) ∧ (isDown false true = false ∧ isUp false true = true) ∧
  (isDown true false = true ∧ isUp true false = false) ∧ (isDown true true = false ∧ isUp true true = false)

/-- R160: TOGGLE never reaches a Flash state. -/
def Obligations.ToggleSwitchesOffEverythingButOff : Prop :=
  toggle .off = .on ∧ toggle .on = .off ∧ toggle .flash1 = .off ∧ toggle .flash2 = .off

/-- From R154, R155 and R159 (the spec's own inference R156): a cell whose counter was 0 appends its first hold
event on its (HOLD_THRESHOLD + 1)-th consecutive pressed scan and one on every pressed scan from then on; `n`
pressed scans have gone before. -/
def Obligations.HoldEventsStartAfterTheThresholdAndRepeat : Prop :=
  ∀ (threshold n : Nat) (c : Cell), threshold ≤ 65534 → c.consecutivePressedScans = 0 → c.notifyOnHold = true →
    ((∃ e ∈ (((fun d => (Cell.scan threshold true d).1)^[n] c).scan threshold true).2, e.holdEventPending = true) ↔
      threshold ≤ n)

/-- R150, R157, R158 and R166 (and the spec's own inference R161, what the two snapshots hold): one pressed scan
between released scans gives a cell that only notifies changes exactly two events, the down edge and then the up
edge. -/
def Obligations.AOneScanBlipGivesTwoEvents : Prop :=
  ∀ (threshold : Nat) (c : Cell), c.notifyOnChange = true → c.notifyOnHold = false → c.lastScanPressed = false →
    ∃ down up, (c.scan threshold true).2 = [down] ∧ ((c.scan threshold true).1.scan threshold false).2 = [up] ∧
      down.lastScanPressed = false ∧ up.lastScanPressed = true ∧ up.consecutivePressedScans = 0

/-- From R133 and R134 (the spec's own inference R137): a Flash1 or Flash2 cell that was dark before the scan with
value `start` is lit after the scan with value `start + k` exactly when the number of multiples of its own period
from `start` to `start + k` is odd, before any wrap. -/
def Obligations.AFlashLampCountsThePeriodsMultiples : Prop :=
  ∀ (cfg : Config) (c : Cell) (period start k : Nat),
    (c.primaryState = .flash1 ∧ period = cfg.flash1Period) ∨ (c.primaryState = .flash2 ∧ period = cfg.flash2Period) →
    c.lampOn = false → start + k < 2 ^ 32 →
    ((List.range (k + 1)).foldl
      (fun d i => { d with lampOn := lampFor cfg (BitVec.ofNat 32 (start + i)) d }) c).lampOn =
    decide ((List.range (k + 1)).countP (fun i => (start + i) % period == 0) % 2 = 1)

/-! ### The link -/

/-- R120: REV8 bit by bit. -/
def Obligations.Rev8ReversesTheBits : Prop :=
  ∀ (b : Byte) (k : Nat), k < 8 → (rev8 b).getLsbD k = b.getLsbD (7 - k)

/-- R121: REV8 twice is the identity. -/
def Obligations.Rev8IsAnInvolution : Prop := ∀ b : Byte, rev8 (rev8 b) = b

/-- From R120, R122 and R124 (the spec's own inference R126): a lamp bit packed with PACK reads back at its byte and
bit, and travels in link bit `7 − i mod 8`. -/
def Obligations.APackedLampBitReadsBack : Prop :=
  ∀ (n i : Nat) (cells : List Cell) (c : Cell), i < n → cells[i]? = some c →
    (pack n cells (i / 8)).getLsbD (i % 8) = c.lampOn ∧
    (rev8 (pack n cells (i / 8))).getLsbD (7 - i % 8) = c.lampOn

/-! ### Reset, and what every step keeps -/

/-- R49, R240: the block's state after reset, for every configuration. That with more than 65536 cells, a malformed
configuration, the `id` of cell `p` is `p` modulo 2^16 is the model's choice (log entry 9). -/
def Obligations.ResetLeavesEveryPieceOfStateAtItsValue : Prop :=
  ∀ c : Config, (State.construct c).cfg = c ∧ (State.construct c).cells.length = c.nCells ∧
    (∀ p, p < c.nCells → (State.construct c).cells[p]? =
      some ⟨BitVec.ofNat 16 p, .off, false, false, false, false, false, false, 0⟩) ∧
    (State.construct c).sc = 0 ∧ (State.construct c).tx.length = c.nb ∧
    (∀ b ∈ (State.construct c).tx, b = 0x00) ∧ (State.construct c).phase = .idle ∧
    (State.construct c).cfgFault = c.malformed

/-- R241: the configurations that set `cfg_fault` at reset. -/
def Obligations.CfgFaultIsSetExactlyByAMalformedConfiguration : Prop :=
  ∀ c : Config, (State.construct c).cfgFault = true ↔
    ¬ c.spiMode ≤ 3 ∨ ¬ (1 ≤ c.nCells ∧ c.nCells ≤ 32767) ∨
    c.flash1Period = 0 ∨ 4294967295 < c.flash1Period ∨ c.flash2Period = 0 ∨ 4294967295 < c.flash2Period ∨
    65534 < c.holdThreshold ∨ c.wordSize ≠ 8

/-- R242: reset at any time gives the reset state, delivers nothing, and discards the answer to the call of a scan in
progress. That the offered commands stay offered is the model's choice (log entry 5). -/
def Obligations.ResetAbandonsAScanInProgress : Prop :=
  ∀ (s : State) (c : Config) (rest : List (Option Config)), s.resets = some c :: rest →
    step s = .next { State.construct c with
      commands := s.commands
      answers := if s.phase = .xferWait then s.answers.tail else s.answers
      resets := rest
      responses := s.responses
      linkOut := s.linkOut }

/-- From R32, R45, R49 (and the spec's own inference R43): the machine's reset state satisfies the invariant. The
configuration it is constructed with is the model's choice (log entry 1). -/
def Obligations.TheResetStateIsConsistent : Prop := State.reset.Inv

/-- From R32, R40, R42, R45 and R213 (and the spec's own inference R43): every step keeps the invariant: `id` =
position for exactly N_CELLS cells, `tx` is PACK of the lamp bits with zero padding, `cfg_fault` says whether the
configuration is malformed, and a block with a malformed configuration stays as reset left it. -/
def Obligations.EveryStepKeepsTheBlockConsistent : Prop :=
  ∀ s t : State, s.Inv → step s = .next t → t.Inv

/-- From R210 (and the spec's own inference R215): no step stops: every error is a response and the block goes on. -/
def Obligations.EveryStepAnswersANextState : Prop := ∀ s : State, ∃ t, step s = .next t

/-- R33: only the issue step of a RUN_SCAN (and reset) writes a lamp bit. -/
def Obligations.OnlyTheEncodePassWritesLamps : Prop :=
  ∀ s t : State, step s = .next t → s.NoReset → t.cells.map Cell.lampOn ≠ s.cells.map Cell.lampOn →
    s.Ready ∧ s.commands.head? = some 0x0000000000000003 ∧ t.phase = .xferWait

/-- R32, R46, R196: no step but a reset writes an `id`, the number of cells or the configuration, and so neither what
the device configuration collaborator was given. -/
def Obligations.IdsAndConfigurationAreFixedBetweenResets : Prop :=
  ∀ s t : State, step s = .next t → s.NoReset →
    t.cells.map Cell.id = s.cells.map Cell.id ∧ t.cfg = s.cfg ∧ t.cfgFault = s.cfgFault ∧
    t.cfg.deviceSetup = s.cfg.deviceSetup

/-- R34, R35, R36: only SET_CELL (and reset) writes a behaviour flag, and only those of the cell it names. -/
def Obligations.OnlySetCellWritesBehaviourFlags : Prop :=
  ∀ (s t : State) (p : Nat) (c d : Cell), step s = .next t → s.NoReset → s.cells[p]? = some c →
    t.cells[p]? = some d →
    ¬ (d.toggleMode = c.toggleMode ∧ d.notifyOnChange = c.notifyOnChange ∧ d.notifyOnHold = c.notifyOnHold) →
    ∃ w pos cb n, s.WillAccept w ∧ decode w = .ok (.setCell pos cb n) ∧ pos.toNat = p

/-- R41, R136: the scan counter changes only when a scan completes with an answer of the right length, and then it
advances by one, wrapping at 2^32. -/
def Obligations.TheScanCounterCountsSuccessfulScans : Prop :=
  ∀ s t : State, step s = .next t → s.NoReset →
    (t.sc = s.sc ∧ ¬ ∃ bytes, s.WillComplete (.ok bytes) ∧ bytes.length = s.cfg.nb) ∨
    (t.sc = s.sc + 1 ∧ ∃ bytes, s.WillComplete (.ok bytes) ∧ bytes.length = s.cfg.nb)

/-- R75, R183, R193: a step calls the transport at most once, with NB bytes, and only as the issue step of a RUN_SCAN
that the block accepts; the block then waits for that call. -/
def Obligations.OneTransportCallPerAcceptedScan : Prop :=
  ∀ s t : State, s.Inv → step s = .next t →
    t.linkOut = s.linkOut ∨
    (s.Ready ∧ s.commands.head? = some 0x0000000000000003 ∧ t.phase = .xferWait ∧
      ∃ out, out.length = s.cfg.nb ∧ t.linkOut = s.linkOut ++ [out])

/-- R91, R210: what a step delivers is appended to what was delivered. A step that completes a scan or accepts
anything but a RUN_SCAN it can run delivers at least one word; any other step delivers none. -/
def Obligations.ResponsesAreOnlyAppended : Prop :=
  ∀ s t : State, step s = .next t →
    ∃ ws, t.responses = s.responses ++ ws ∧
      (ws ≠ [] ↔ (∃ a, s.WillComplete a) ∨
        ∃ w, s.WillAccept w ∧ ¬ (s.cfgFault = false ∧ w = 0x0000000000000003))
end

