-- ==== Sys2Proof/Laws/Bits.lean ====
section
/-! SUPPORT. Bits and bytes: the byte built from its bits, REV8, a bit of a buffer, PACK. -/

namespace Sys2Proof

theorem byteOf_getLsbD (f : Nat → Bool) (k : Nat) (h : k < 8) : (byteOf f).getLsbD k = f k := by
  have : k = 0 ∨ k = 1 ∨ k = 2 ∨ k = 3 ∨ k = 4 ∨ k = 5 ∨ k = 6 ∨ k = 7 := by omega
  rcases this with rfl | rfl | rfl | rfl | rfl | rfl | rfl | rfl <;>
    (simp only [byteOf, BitVec.getLsbD_append]; simp)

/-- Two bytes with the same eight bits are equal. -/
theorem byte_ext (a b : Byte) (h : ∀ k, k < 8 → a.getLsbD k = b.getLsbD k) : a = b :=
  BitVec.eq_of_getLsbD_eq fun k hk => h k hk

namespace Machine

theorem rev8_getLsbD (b : Byte) (k : Nat) (h : k < 8) : (rev8 b).getLsbD k = b.getLsbD (7 - k) := by
  simp [rev8, byteOf_getLsbD _ _ h]

theorem setBit_getLsbD (b : Byte) (k i : Nat) (v : Bool) (h : i < 8) :
    (setBit b k v).getLsbD i = if i = k then v else b.getLsbD i := by
  simp [setBit, byteOf_getLsbD _ _ h]

theorem pack_getLsbD (n : Nat) (cells : List Cell) (j k : Nat) (h : k < 8) :
    (pack n cells j).getLsbD k = (decide (8 * j + k < n) && lampBit cells (8 * j + k)) := by
  simp [pack, byteOf_getLsbD _ _ h]

@[simp] theorem txWrite_length (tx : List Byte) (p : Nat) (v : Bool) : (txWrite tx p v).length = tx.length := by
  simp [txWrite]

/-- A written bit of a buffer reads back, and every other bit reads as before. -/
theorem bufferBit_txWrite (tx : List Byte) (p q : Nat) (v : Bool) (hp : p / 8 < tx.length) :
    bufferBit (txWrite tx p v) q = if q = p then v else bufferBit tx q := by
  simp only [bufferBit, txWrite, byteIndex, bitIndex, List.getD_eq_getElem?_getD, List.getElem?_modify]
  by_cases hj : p / 8 = q / 8
  · obtain ⟨b, hb⟩ : ∃ b, tx[q / 8]? = some b := ⟨_, List.getElem?_eq_getElem (hj ▸ hp)⟩
    simp only [hb, hj, if_true, Option.map_eq_map, Option.map_some, Option.getD_some, setBit_getLsbD _ _ _ _ (Nat.mod_lt q (by omega))]
    by_cases hq : q = p
    · subst hq; simp
    · have : ¬ q % 8 = p % 8 := by omega
      simp [hq, this]
  · have : q ≠ p := by rintro rfl; exact hj rfl
    simp [hj, this]

/-- Reversing a sequence's bytes turns bit `p mod 8` into bit `7 − p mod 8` of the same byte. -/
theorem bufferBit_reverseBytes (bs : List Byte) (p : Nat) :
    bufferBit (reverseBytes bs) p = (bs.getD (p / 8) 0).getLsbD (7 - p % 8) := by
  simp only [bufferBit, reverseBytes, byteIndex, bitIndex, List.getD_eq_getElem?_getD, List.getElem?_map]
  cases h : bs[p / 8]? with
  | none => simp
  | some b => simp [rev8_getLsbD _ _ (Nat.mod_lt p (by omega : 0 < 8))]

/-- A buffer is known by its length and its bits. -/
theorem buffer_ext (a b : List Byte) (hl : a.length = b.length)
    (h : ∀ q, q < 8 * a.length → bufferBit a q = bufferBit b q) : a = b := by
  refine List.ext_getElem hl fun j h1 h2 => byte_ext _ _ fun k hk => ?_
  have := h (8 * j + k) (by omega)
  have e1 : (8 * j + k) / 8 = j := by omega
  have e2 : (8 * j + k) % 8 = k := by omega
  simpa [bufferBit, byteIndex, bitIndex, e1, e2, h1, h2] using this

/-- The transmit buffer that PACK gives for a cell array. -/
theorem bufferBit_packed (n nb : Nat) (cells : List Cell) (q : Nat) (h : q < 8 * nb) :
    bufferBit ((List.range nb).map (pack n cells)) q = (decide (q < n) && lampBit cells q) := by
  have hj : q / 8 < nb := by omega
  have e : 8 * (q / 8) + q % 8 = q := by omega
  simp [bufferBit, byteIndex, bitIndex, hj, pack_getLsbD _ _ _ _ (Nat.mod_lt q (by omega : 0 < 8)), e]

end Machine

end Sys2Proof
end

