-- ==== Sys2Proof/Laws/State.lean ====
section
/-! SUPPORT. The state updates, field by field: what each shared operation writes and what it leaves. -/

namespace Sys2Proof.Machine

/-! ### cellWrite -/

@[simp] theorem State.cellWrite_cfg (s : State) (p : Nat) (c : Cell) : (s.cellWrite p c).cfg = s.cfg := rfl
@[simp] theorem State.cellWrite_cells (s : State) (p : Nat) (c : Cell) : (s.cellWrite p c).cells = s.cells.set p c := rfl
@[simp] theorem State.cellWrite_sc (s : State) (p : Nat) (c : Cell) : (s.cellWrite p c).sc = s.sc := rfl
@[simp] theorem State.cellWrite_tx (s : State) (p : Nat) (c : Cell) : (s.cellWrite p c).tx = s.tx := rfl
@[simp] theorem State.cellWrite_phase (s : State) (p : Nat) (c : Cell) : (s.cellWrite p c).phase = s.phase := rfl
@[simp] theorem State.cellWrite_cfgFault (s : State) (p : Nat) (c : Cell) : (s.cellWrite p c).cfgFault = s.cfgFault := rfl
@[simp] theorem State.cellWrite_commands (s : State) (p : Nat) (c : Cell) : (s.cellWrite p c).commands = s.commands := rfl
@[simp] theorem State.cellWrite_answers (s : State) (p : Nat) (c : Cell) : (s.cellWrite p c).answers = s.answers := rfl
@[simp] theorem State.cellWrite_resets (s : State) (p : Nat) (c : Cell) : (s.cellWrite p c).resets = s.resets := rfl
@[simp] theorem State.cellWrite_responses (s : State) (p : Nat) (c : Cell) : (s.cellWrite p c).responses = s.responses := rfl
@[simp] theorem State.cellWrite_linkOut (s : State) (p : Nat) (c : Cell) : (s.cellWrite p c).linkOut = s.linkOut := rfl

/-! ### emit -/

@[simp] theorem State.emit_cfg (s : State) (ws : List Word) : (s.emit ws).cfg = s.cfg := rfl
@[simp] theorem State.emit_cells (s : State) (ws : List Word) : (s.emit ws).cells = s.cells := rfl
@[simp] theorem State.emit_sc (s : State) (ws : List Word) : (s.emit ws).sc = s.sc := rfl
@[simp] theorem State.emit_tx (s : State) (ws : List Word) : (s.emit ws).tx = s.tx := rfl
@[simp] theorem State.emit_phase (s : State) (ws : List Word) : (s.emit ws).phase = s.phase := rfl
@[simp] theorem State.emit_cfgFault (s : State) (ws : List Word) : (s.emit ws).cfgFault = s.cfgFault := rfl
@[simp] theorem State.emit_commands (s : State) (ws : List Word) : (s.emit ws).commands = s.commands := rfl
@[simp] theorem State.emit_answers (s : State) (ws : List Word) : (s.emit ws).answers = s.answers := rfl
@[simp] theorem State.emit_resets (s : State) (ws : List Word) : (s.emit ws).resets = s.resets := rfl
@[simp] theorem State.emit_responses (s : State) (ws : List Word) : (s.emit ws).responses = s.responses ++ ws := rfl
@[simp] theorem State.emit_linkOut (s : State) (ws : List Word) : (s.emit ws).linkOut = s.linkOut := rfl

/-! ### raise -/

@[simp] theorem State.raise_cfg (s : State) (e : ErrorKind) : (s.raise e).cfg = s.cfg := rfl
@[simp] theorem State.raise_cells (s : State) (e : ErrorKind) : (s.raise e).cells = s.cells := rfl
@[simp] theorem State.raise_sc (s : State) (e : ErrorKind) : (s.raise e).sc = s.sc := rfl
@[simp] theorem State.raise_tx (s : State) (e : ErrorKind) : (s.raise e).tx = s.tx := rfl
@[simp] theorem State.raise_phase (s : State) (e : ErrorKind) : (s.raise e).phase = .idle := rfl
@[simp] theorem State.raise_cfgFault (s : State) (e : ErrorKind) : (s.raise e).cfgFault = s.cfgFault := rfl
@[simp] theorem State.raise_commands (s : State) (e : ErrorKind) : (s.raise e).commands = s.commands := rfl
@[simp] theorem State.raise_answers (s : State) (e : ErrorKind) : (s.raise e).answers = s.answers := rfl
@[simp] theorem State.raise_resets (s : State) (e : ErrorKind) : (s.raise e).resets = s.resets := rfl
@[simp] theorem State.raise_responses (s : State) (e : ErrorKind) : (s.raise e).responses = s.responses ++ [e.word] := rfl
@[simp] theorem State.raise_linkOut (s : State) (e : ErrorKind) : (s.raise e).linkOut = s.linkOut := rfl

/-! ### tick -/

@[simp] theorem State.tick_cfg (s : State) : (s.tick).cfg = s.cfg := rfl
@[simp] theorem State.tick_cells (s : State) : (s.tick).cells = s.cells := rfl
@[simp] theorem State.tick_sc (s : State) : (s.tick).sc = s.sc := rfl
@[simp] theorem State.tick_tx (s : State) : (s.tick).tx = s.tx := rfl
@[simp] theorem State.tick_phase (s : State) : (s.tick).phase = s.phase := rfl
@[simp] theorem State.tick_cfgFault (s : State) : (s.tick).cfgFault = s.cfgFault := rfl
@[simp] theorem State.tick_commands (s : State) : (s.tick).commands = s.commands := rfl
@[simp] theorem State.tick_answers (s : State) : (s.tick).answers = s.answers := rfl
@[simp] theorem State.tick_resets (s : State) : (s.tick).resets = s.resets.tail := rfl
@[simp] theorem State.tick_responses (s : State) : (s.tick).responses = s.responses := rfl
@[simp] theorem State.tick_linkOut (s : State) : (s.tick).linkOut = s.linkOut := rfl

/-! ### takeCommand -/

@[simp] theorem State.takeCommand_cfg (s : State) : (s.takeCommand).cfg = s.cfg := rfl
@[simp] theorem State.takeCommand_cells (s : State) : (s.takeCommand).cells = s.cells := rfl
@[simp] theorem State.takeCommand_sc (s : State) : (s.takeCommand).sc = s.sc := rfl
@[simp] theorem State.takeCommand_tx (s : State) : (s.takeCommand).tx = s.tx := rfl
@[simp] theorem State.takeCommand_phase (s : State) : (s.takeCommand).phase = s.phase := rfl
@[simp] theorem State.takeCommand_cfgFault (s : State) : (s.takeCommand).cfgFault = s.cfgFault := rfl
@[simp] theorem State.takeCommand_commands (s : State) : (s.takeCommand).commands = s.commands.tail := rfl
@[simp] theorem State.takeCommand_answers (s : State) : (s.takeCommand).answers = s.answers := rfl
@[simp] theorem State.takeCommand_resets (s : State) : (s.takeCommand).resets = s.resets.tail := rfl
@[simp] theorem State.takeCommand_responses (s : State) : (s.takeCommand).responses = s.responses := rfl
@[simp] theorem State.takeCommand_linkOut (s : State) : (s.takeCommand).linkOut = s.linkOut := rfl

/-! ### takeAnswer -/

@[simp] theorem State.takeAnswer_cfg (s : State) : (s.takeAnswer).cfg = s.cfg := rfl
@[simp] theorem State.takeAnswer_cells (s : State) : (s.takeAnswer).cells = s.cells := rfl
@[simp] theorem State.takeAnswer_sc (s : State) : (s.takeAnswer).sc = s.sc := rfl
@[simp] theorem State.takeAnswer_tx (s : State) : (s.takeAnswer).tx = s.tx := rfl
@[simp] theorem State.takeAnswer_phase (s : State) : (s.takeAnswer).phase = s.phase := rfl
@[simp] theorem State.takeAnswer_cfgFault (s : State) : (s.takeAnswer).cfgFault = s.cfgFault := rfl
@[simp] theorem State.takeAnswer_commands (s : State) : (s.takeAnswer).commands = s.commands := rfl
@[simp] theorem State.takeAnswer_answers (s : State) : (s.takeAnswer).answers = s.answers.tail := rfl
@[simp] theorem State.takeAnswer_resets (s : State) : (s.takeAnswer).resets = s.resets.tail := rfl
@[simp] theorem State.takeAnswer_responses (s : State) : (s.takeAnswer).responses = s.responses := rfl
@[simp] theorem State.takeAnswer_linkOut (s : State) : (s.takeAnswer).linkOut = s.linkOut := rfl

/-! ### takeReset -/

@[simp] theorem State.takeReset_cfg (s : State) (c : Config) : (s.takeReset c).cfg = c := rfl
@[simp] theorem State.takeReset_cells (s : State) (c : Config) : (s.takeReset c).cells = (List.range c.nCells).map Cell.initial := rfl
@[simp] theorem State.takeReset_sc (s : State) (c : Config) : (s.takeReset c).sc = 0 := rfl
@[simp] theorem State.takeReset_tx (s : State) (c : Config) : (s.takeReset c).tx = List.replicate c.nb 0 := rfl
@[simp] theorem State.takeReset_phase (s : State) (c : Config) : (s.takeReset c).phase = .idle := rfl
@[simp] theorem State.takeReset_cfgFault (s : State) (c : Config) : (s.takeReset c).cfgFault = c.malformed := rfl
@[simp] theorem State.takeReset_commands (s : State) (c : Config) : (s.takeReset c).commands = s.commands := rfl
@[simp] theorem State.takeReset_answers (s : State) (c : Config) : (s.takeReset c).answers = (match s.phase with | .xferWait => s.answers.tail | .idle => s.answers) := rfl
@[simp] theorem State.takeReset_resets (s : State) (c : Config) : (s.takeReset c).resets = s.resets.tail := rfl
@[simp] theorem State.takeReset_responses (s : State) (c : Config) : (s.takeReset c).responses = s.responses := rfl
@[simp] theorem State.takeReset_linkOut (s : State) (c : Config) : (s.takeReset c).linkOut = s.linkOut := rfl

/-! ### construct -/

@[simp] theorem State.construct_cfg (c : Config) : (State.construct c).cfg = c := rfl
@[simp] theorem State.construct_cells (c : Config) : (State.construct c).cells = (List.range c.nCells).map Cell.initial := rfl
@[simp] theorem State.construct_sc (c : Config) : (State.construct c).sc = 0 := rfl
@[simp] theorem State.construct_tx (c : Config) : (State.construct c).tx = List.replicate c.nb 0 := rfl
@[simp] theorem State.construct_phase (c : Config) : (State.construct c).phase = .idle := rfl
@[simp] theorem State.construct_cfgFault (c : Config) : (State.construct c).cfgFault = c.malformed := rfl
@[simp] theorem State.construct_commands (c : Config) : (State.construct c).commands = [] := rfl
@[simp] theorem State.construct_answers (c : Config) : (State.construct c).answers = [] := rfl
@[simp] theorem State.construct_resets (c : Config) : (State.construct c).resets = [] := rfl
@[simp] theorem State.construct_responses (c : Config) : (State.construct c).responses = [] := rfl
@[simp] theorem State.construct_linkOut (c : Config) : (State.construct c).linkOut = [] := rfl

/-! ### Cell.configure -/

@[simp] theorem Cell.configure_id (c : Cell) (cb : CellByte) (n : Half) : (c.configure cb n).id = c.id := rfl
@[simp] theorem Cell.configure_primaryState (c : Cell) (cb : CellByte) (n : Half) : (c.configure cb n).primaryState = cb.primaryState := rfl
@[simp] theorem Cell.configure_lampOn (c : Cell) (cb : CellByte) (n : Half) : (c.configure cb n).lampOn = c.lampOn := rfl
@[simp] theorem Cell.configure_toggleMode (c : Cell) (cb : CellByte) (n : Half) : (c.configure cb n).toggleMode = cb.toggleMode := rfl
@[simp] theorem Cell.configure_notifyOnChange (c : Cell) (cb : CellByte) (n : Half) : (c.configure cb n).notifyOnChange = cb.notifyOnChange := rfl
@[simp] theorem Cell.configure_notifyOnHold (c : Cell) (cb : CellByte) (n : Half) : (c.configure cb n).notifyOnHold = cb.notifyOnHold := rfl
@[simp] theorem Cell.configure_holdEventPending (c : Cell) (cb : CellByte) (n : Half) : (c.configure cb n).holdEventPending = cb.holdEventPending := rfl
@[simp] theorem Cell.configure_lastScanPressed (c : Cell) (cb : CellByte) (n : Half) : (c.configure cb n).lastScanPressed = cb.lastScanPressed := rfl
@[simp] theorem Cell.configure_consecutivePressedScans (c : Cell) (cb : CellByte) (n : Half) : (c.configure cb n).consecutivePressedScans = n := rfl

/-! ### Cell.setState -/

@[simp] theorem Cell.setState_id (c : Cell) (s : PrimaryState) : (c.setState s).id = c.id := rfl
@[simp] theorem Cell.setState_primaryState (c : Cell) (s : PrimaryState) : (c.setState s).primaryState = s := rfl
@[simp] theorem Cell.setState_lampOn (c : Cell) (s : PrimaryState) : (c.setState s).lampOn = c.lampOn := rfl
@[simp] theorem Cell.setState_toggleMode (c : Cell) (s : PrimaryState) : (c.setState s).toggleMode = c.toggleMode := rfl
@[simp] theorem Cell.setState_notifyOnChange (c : Cell) (s : PrimaryState) : (c.setState s).notifyOnChange = c.notifyOnChange := rfl
@[simp] theorem Cell.setState_notifyOnHold (c : Cell) (s : PrimaryState) : (c.setState s).notifyOnHold = c.notifyOnHold := rfl
@[simp] theorem Cell.setState_holdEventPending (c : Cell) (s : PrimaryState) : (c.setState s).holdEventPending = c.holdEventPending := rfl
@[simp] theorem Cell.setState_lastScanPressed (c : Cell) (s : PrimaryState) : (c.setState s).lastScanPressed = c.lastScanPressed := rfl
@[simp] theorem Cell.setState_consecutivePressedScans (c : Cell) (s : PrimaryState) : (c.setState s).consecutivePressedScans = c.consecutivePressedScans := rfl

/-! ### Cell.countPress -/

@[simp] theorem Cell.countPress_id (c : Cell) (b : Bool) : (c.countPress b).id = c.id := rfl
@[simp] theorem Cell.countPress_primaryState (c : Cell) (b : Bool) : (c.countPress b).primaryState = c.primaryState := rfl
@[simp] theorem Cell.countPress_lampOn (c : Cell) (b : Bool) : (c.countPress b).lampOn = c.lampOn := rfl
@[simp] theorem Cell.countPress_toggleMode (c : Cell) (b : Bool) : (c.countPress b).toggleMode = c.toggleMode := rfl
@[simp] theorem Cell.countPress_notifyOnChange (c : Cell) (b : Bool) : (c.countPress b).notifyOnChange = c.notifyOnChange := rfl
@[simp] theorem Cell.countPress_notifyOnHold (c : Cell) (b : Bool) : (c.countPress b).notifyOnHold = c.notifyOnHold := rfl
@[simp] theorem Cell.countPress_holdEventPending (c : Cell) (b : Bool) : (c.countPress b).holdEventPending = c.holdEventPending := rfl
@[simp] theorem Cell.countPress_lastScanPressed (c : Cell) (b : Bool) : (c.countPress b).lastScanPressed = c.lastScanPressed := rfl
@[simp] theorem Cell.countPress_consecutivePressedScans (c : Cell) (b : Bool) : (c.countPress b).consecutivePressedScans = pressCount b c.consecutivePressedScans := rfl

/-! ### Cell.remember -/

@[simp] theorem Cell.remember_id (c : Cell) (b : Bool) : (c.remember b).id = c.id := rfl
@[simp] theorem Cell.remember_primaryState (c : Cell) (b : Bool) : (c.remember b).primaryState = c.primaryState := rfl
@[simp] theorem Cell.remember_lampOn (c : Cell) (b : Bool) : (c.remember b).lampOn = c.lampOn := rfl
@[simp] theorem Cell.remember_toggleMode (c : Cell) (b : Bool) : (c.remember b).toggleMode = c.toggleMode := rfl
@[simp] theorem Cell.remember_notifyOnChange (c : Cell) (b : Bool) : (c.remember b).notifyOnChange = c.notifyOnChange := rfl
@[simp] theorem Cell.remember_notifyOnHold (c : Cell) (b : Bool) : (c.remember b).notifyOnHold = c.notifyOnHold := rfl
@[simp] theorem Cell.remember_holdEventPending (c : Cell) (b : Bool) : (c.remember b).holdEventPending = c.holdEventPending := rfl
@[simp] theorem Cell.remember_lastScanPressed (c : Cell) (b : Bool) : (c.remember b).lastScanPressed = b := rfl
@[simp] theorem Cell.remember_consecutivePressedScans (c : Cell) (b : Bool) : (c.remember b).consecutivePressedScans = c.consecutivePressedScans := rfl

end Sys2Proof.Machine
end

