-- ==== Sys2Proof/Laws/Passes.lean ====
section
/-! SUPPORT. The two passes of a scan in closed form: what the encode pass and the decode pass do to every cell, to
the transmit buffer and to the event list, and that they touch nothing else. -/

namespace Sys2Proof.Machine

theorem cellRead_of_getElem? (s : State) (p : Nat) (c : Cell) (h : s.cells[p]? = some c) : s.cellRead p = c := by
  simp [State.cellRead, h]

/-! ### The encode pass -/

/-- The cell a scan with value `S` leaves in the encode pass. -/
theorem encode_loop (S : ScanCount) (s : State) (k : Nat) :
    (List.range k).foldl (encodeCell S) s =
      { s with
        cells := s.cells.mapIdx fun p c => if p < k then { c with lampOn := lampFor s.cfg S c } else c
        tx := (List.range k).foldl (fun tx p => txWrite tx p (lampFor s.cfg S (s.cellRead p))) s.tx } := by
  induction k with
  | zero => simp [List.mapIdx_eq_ofFn]
  | succ k ih =>
    rw [List.range_succ, List.foldl_append, ih]
    simp only [List.foldl_cons, List.foldl_nil, List.foldl_append, encodeCell]
    have hr : ∀ t : List Byte, State.cellRead { s with
        cells := s.cells.mapIdx fun p c => if p < k then { c with lampOn := lampFor s.cfg S c } else c
        tx := t } k = s.cellRead k := by
      intro t
      simp only [State.cellRead, List.getD_eq_getElem?_getD, List.getElem?_mapIdx]
      cases s.cells[k]? <;> simp
    simp only [hr, State.cellWrite, State.mk.injEq, true_and, and_true]
    apply List.ext_getElem?
    intro p
    simp only [List.getElem?_set, List.getElem?_mapIdx, List.length_mapIdx, State.cellRead]
    by_cases hp : k = p
    · subst hp
      cases h : s.cells[k]? with
      | none => simp [List.getElem?_eq_none_iff.mp h]
      | some c =>
        obtain ⟨hk, rfl⟩ := List.getElem?_eq_some_iff.mp h
        simp [hk]
    · have : p < k + 1 ↔ p < k := by omega
      simp [hp, this]

/-- What the encode pass does, once and for all: every lamp bit of the chain, the transmit buffer, nothing else. -/
theorem encodePass_eq (s : State) :
    encodePass s =
      { s with
        cells := s.cells.mapIdx fun p c => if p < s.cfg.nCells then { c with lampOn := lampFor s.cfg s.sc c } else c
        tx := (List.range s.cfg.nCells).foldl (fun tx p => txWrite tx p (lampFor s.cfg s.sc (s.cellRead p))) s.tx } :=
  encode_loop s.sc s s.cfg.nCells

/-- On an array of N_CELLS cells the encode pass computes every lamp bit. -/
theorem encodePass_cells (s : State) (h : s.cells.length = s.cfg.nCells) :
    (encodePass s).cells = s.cells.map fun c => { c with lampOn := lampFor s.cfg s.sc c } := by
  rw [encodePass_eq]
  refine List.ext_getElem (by simp) fun p h1 h2 => ?_
  simp at h1 h2
  simp [← h, h1]

theorem txWrite_loop_length (f : Nat → Bool) (tx : List Byte) (k : Nat) :
    ((List.range k).foldl (fun tx p => txWrite tx p (f p)) tx).length = tx.length := by
  induction k with
  | zero => rfl
  | succ k ih => simp [List.range_succ, List.foldl_append, ih]

theorem txWrite_loop_bit (f : Nat → Bool) (tx : List Byte) (k q : Nat) (hk : k ≤ 8 * tx.length) :
    bufferBit ((List.range k).foldl (fun tx p => txWrite tx p (f p)) tx) q =
      if q < k then f q else bufferBit tx q := by
  induction k with
  | zero => simp
  | succ k ih =>
    rw [List.range_succ, List.foldl_append]
    simp only [List.foldl_cons, List.foldl_nil]
    rw [bufferBit_txWrite _ _ _ _ (by rw [txWrite_loop_length]; omega), ih (by omega)]
    by_cases hq : q = k
    · subst hq; simp
    · have : q < k + 1 ↔ q < k := by omega
      simp [hq, this]

/-- After the encode pass the transmit buffer is PACK of the new lamp bits, if its padding was 0 before. -/
theorem encodePass_tx (s : State) (h : s.cells.length = s.cfg.nCells)
    (htx : s.tx = (List.range s.cfg.nb).map (pack s.cfg.nCells s.cells)) :
    (encodePass s).tx = (List.range s.cfg.nb).map (pack s.cfg.nCells (encodePass s).cells) := by
  have hlen : s.tx.length = s.cfg.nb := by rw [htx]; simp
  have hnb : s.cfg.nCells ≤ 8 * s.cfg.nb := by unfold Config.nb; omega
  have ht : (encodePass s).tx =
      (List.range s.cfg.nCells).foldl (fun tx p => txWrite tx p (lampFor s.cfg s.sc (s.cellRead p))) s.tx := by
    rw [encodePass_eq]
  have hl : (encodePass s).tx.length = s.cfg.nb := by rw [ht, txWrite_loop_length, hlen]
  refine buffer_ext _ _ (by simp [hl]) fun q hq => ?_
  rw [bufferBit_packed _ _ _ _ (by omega), ht, txWrite_loop_bit _ _ _ _ (by omega), encodePass_cells s h]
  by_cases hn : q < s.cfg.nCells
  · obtain ⟨c, hc⟩ : ∃ c, s.cells[q]? = some c := ⟨_, List.getElem?_eq_getElem (by omega)⟩
    simp [hn, lampBit, hc, cellRead_of_getElem? s q c hc]
  · rw [if_neg hn]
    have hbit : bufferBit s.tx q = (decide (q < s.cfg.nCells) && lampBit s.cells q) := by
      conv => lhs; rw [htx]
      exact bufferBit_packed _ _ _ _ (by omega)
    simp [hbit, hn]

/-! ### The decode pass -/

/-- The record a cell is left with, and the events it appends, when cell `p`'s sample is in `rx`. -/
theorem decode_loop (rx : List Byte) (s : State) (k : Nat) :
    (List.range k).foldl (decodeCell rx) (s, []) =
      ({ s with
        cells := s.cells.mapIdx fun p c => if p < k then (c.scan s.cfg.holdThreshold (pressed rx p)).1 else c },
       (List.range k).flatMap fun p => ((s.cellRead p).scan s.cfg.holdThreshold (pressed rx p)).2) := by
  induction k with
  | zero => simp [List.mapIdx_eq_ofFn]
  | succ k ih =>
    rw [List.range_succ, List.foldl_append, ih]
    simp only [List.foldl_cons, List.foldl_nil, decodeCell, List.flatMap_append, List.flatMap_cons, List.flatMap_nil,
      List.append_nil]
    have hr : State.cellRead { s with
        cells := s.cells.mapIdx fun p c => if p < k then (c.scan s.cfg.holdThreshold (pressed rx p)).1 else c } k =
        s.cellRead k := by
      simp only [State.cellRead, List.getD_eq_getElem?_getD, List.getElem?_mapIdx]
      cases s.cells[k]? <;> simp
    simp only [hr, State.cellWrite, Prod.mk.injEq, State.mk.injEq, true_and, and_true]
    apply List.ext_getElem?
    intro p
    simp only [List.getElem?_set, List.getElem?_mapIdx, List.length_mapIdx, State.cellRead]
    by_cases hp : k = p
    · subst hp
      cases h : s.cells[k]? with
      | none => simp [List.getElem?_eq_none_iff.mp h]
      | some c =>
        obtain ⟨hk, rfl⟩ := List.getElem?_eq_some_iff.mp h
        simp [hk]
    · have : p < k + 1 ↔ p < k := by omega
      simp [hp, this]

/-- What the decode pass does, once and for all: every record of the chain, the events in ascending order of
position, nothing else. -/
theorem decodePass_eq (rx : List Byte) (s : State) :
    decodePass rx s =
      ({ s with
        cells := s.cells.mapIdx fun p c =>
          if p < s.cfg.nCells then (c.scan s.cfg.holdThreshold (pressed rx p)).1 else c },
       (List.range s.cfg.nCells).flatMap fun p => ((s.cellRead p).scan s.cfg.holdThreshold (pressed rx p)).2) :=
  decode_loop rx s s.cfg.nCells

end Sys2Proof.Machine
end

