-- ==== Sys2Proof/Laws/Commands.lean ====
section
/-! SUPPORT. What each shared operation of the commands can do, said once: the checks in front of a command, the
commands' effects in closed form, the completion of a scan, and the cases of one step. -/

namespace Sys2Proof.Machine

/-! ### Accepting a command -/

@[simp] theorem State.accept_xferWait (s : State) (run : State → State) (h : s.phase = .xferWait) :
    s.accept run = s := by
  simp [State.accept, h]

@[simp] theorem State.accept_fault (s : State) (run : State → State) (h : s.phase = .idle) (hf : s.cfgFault = true) :
    s.accept run = s.raise .configError := by
  simp [State.accept, h, hf]

@[simp] theorem State.accept_ready (s : State) (run : State → State) (h : s.Ready) : s.accept run = run s := by
  simp [State.accept, h.1, h.2]

/-- What accepting can do: nothing while a scan waits, ERR_CONFIG with a malformed configuration, else the command. -/
theorem State.accept_cases (s : State) (run : State → State) :
    (s.phase = .xferWait ∧ s.accept run = s) ∨
    (s.phase = .idle ∧ s.cfgFault = true ∧ s.accept run = s.raise .configError) ∨
    (s.Ready ∧ s.accept run = run s) := by
  cases hp : s.phase with
  | xferWait => exact .inl ⟨rfl, s.accept_xferWait run hp⟩
  | idle =>
    cases hf : s.cfgFault with
    | true => exact .inr (.inl ⟨rfl, rfl, s.accept_fault run hp hf⟩)
    | false => exact .inr (.inr ⟨⟨hp, hf⟩, s.accept_ready run ⟨hp, hf⟩⟩)

/-- The effect of a command once accepted. -/
def commandEffect : Instr → State → State
  | .setCell pos cb count => fun s => s.setCell pos cb count
  | .getCell pos => fun s => s.getCell pos
  | .runScan => State.issueScan

/-- Every instruction answers a next state: its effect behind the checks of R181. -/
theorem exec_eq (i : Instr) (s : State) : exec i s = .next (s.accept (commandEffect i)) := by
  cases i <;> rfl

/-! ### The commands' effects -/

/-- Writing one record is modifying that entry of the array. -/
theorem State.cellWrite_configure (s : State) (p : Nat) (cb : CellByte) (n : Half) :
    s.cellWrite p ((s.cellRead p).configure cb n) = { s with cells := s.cells.modify p fun c => c.configure cb n } := by
  simp only [State.cellWrite, State.mk.injEq, true_and, and_true]
  apply List.ext_getElem?
  intro q
  simp only [List.getElem?_set, List.getElem?_modify, State.cellRead, List.getD_eq_getElem?_getD]
  by_cases hq : p = q
  · subst hq
    cases h : s.cells[p]? with
    | none => simp [List.getElem?_eq_none_iff.mp h]
    | some c =>
      obtain ⟨hk, rfl⟩ := List.getElem?_eq_some_iff.mp h
      simp [hk]
  · simp [hq]

/-- SET_CELL in closed form. -/
theorem State.setCell_cases (s : State) (pos : Half) (cb : CellByte) (n : Half) :
    (pos.toNat < s.cfg.nCells ∧ s.setCell pos cb n =
      { s with
        cells := s.cells.modify pos.toNat fun c => c.configure cb n
        responses := s.responses ++ [0] }) ∨
    (s.cfg.nCells ≤ pos.toNat ∧ s.setCell pos cb n = s.raise (.indexOutOfRange pos)) := by
  by_cases h : pos.toNat < s.cfg.nCells
  · exact .inl ⟨h, by simp [State.setCell, State.positionValid, h, s.cellWrite_configure, State.emit, doneWord]⟩
  · exact .inr ⟨by omega, by simp [State.setCell, State.positionValid, h]⟩

/-- GET_CELL in closed form. -/
theorem State.getCell_cases (s : State) (pos : Half) :
    (pos.toNat < s.cfg.nCells ∧ s.getCell pos = s.emit [snapshotWord (s.cellRead pos.toNat)]) ∨
    (s.cfg.nCells ≤ pos.toNat ∧ s.getCell pos = s.raise (.indexOutOfRange pos)) := by
  by_cases h : pos.toNat < s.cfg.nCells
  · exact .inl ⟨h, by simp [State.getCell, State.positionValid, h]⟩
  · exact .inr ⟨by omega, by simp [State.getCell, State.positionValid, h]⟩

/-- The issue step in closed form: `lamp_on`, `tx`, the link bytes and the phase change, nothing else. -/
theorem State.issueScan_eq (s : State) :
    s.issueScan =
      { s with
        cells := (encodePass s).cells
        tx := (encodePass s).tx
        linkOut := s.linkOut ++ [reverseBytes (encodePass s).tx]
        phase := .xferWait } := by
  simp [State.issueScan, encodePass_eq]

/-- The completion step on a successful exchange, in closed form. -/
theorem State.finishScan_eq (s : State) (bytes : List Byte) :
    s.finishScan bytes =
      { s with
        cells := (decodePass (reverseBytes bytes) s).1.cells
        sc := wrapInc32 s.sc
        responses := s.responses ++ ((decodePass (reverseBytes bytes) s).2.map snapshotWord ++
          [doneWord (BitVec.ofNat 16 (decodePass (reverseBytes bytes) s).2.length) s.sc])
        phase := .idle } := by
  simp [State.finishScan, decodePass_eq, State.emit]

/-- What completing a scan can do. -/
theorem State.completeScan_cases (s : State) (a : Answer) :
    (∃ bytes, a = .ok bytes ∧ bytes.length = s.cfg.nb ∧ s.completeScan a = s.finishScan bytes) ∨
    (∃ reason, s.completeScan a = s.raise (.transportError reason)) := by
  cases a with
  | fail r => exact .inr ⟨r, rfl⟩
  | ok bytes =>
    by_cases h : bytes.length = s.cfg.nb
    · exact .inl ⟨bytes, rfl, h, by simp [State.completeScan, h]⟩
    · exact .inr ⟨wrongLengthReason, by simp [State.completeScan, h]⟩

/-! ### One step -/

theorem State.turn_reset (s : State) (c : Config) (h : s.resets.head? = some (some c)) : s.turn = .reset c := by
  simp [State.turn, h]

theorem State.noReset_iff (s : State) : s.NoReset ↔ ∀ c, s.resets.head? ≠ some (some c) := by
  unfold State.NoReset
  cases s.resets.head? with
  | none => simp
  | some o => cases o <;> simp

theorem State.turn_noReset (s : State) (h : s.NoReset) :
    s.turn = match s.phase with
      | .xferWait => (match s.answers.head? with | some a => .complete a | none => .hang)
      | .idle => (match s.commands.head? with | some w => .accept w | none => .rest) := by
  have := (s.noReset_iff).mp h
  unfold State.turn
  split
  · next c hc => exact absurd hc (this c)
  · rfl

/-- A step that completes a scan. -/
theorem step_complete (s : State) (a : Answer) (h : s.WillComplete a) :
    step s = .next (s.takeAnswer.completeScan a) := by
  simp [step, s.turn_noReset h.1, h.2.1, h.2.2]

/-- A step that accepts a command word. -/
theorem step_accept (s : State) (w : Word) (h : s.WillAccept w) :
    step s = match decode w with
      | .ok i => exec i s.takeCommand
      | .error _ => .next s.takeCommand.refuseIllegal := by
  have ht : s.turn = .accept w := by simp [s.turn_noReset h.1, h.2.1, h.2.2]
  cases hd : decode w <;> simp only [step, ht, hd]

/-- A run takes its first step and goes on from there. -/
theorem run_succ (k : Nat) (s t : State) (h : step s = .next t) : core.run (k + 1) s = core.run k t := by
  have h' : core.step s = .next t := h
  simp only [Host.Core.run, h']

@[simp] theorem run_zero (s : State) : core.run 0 s = .next s := rfl

/-- The cases of a step: reset; a scan completes, or waits; a command is accepted, or none is offered. -/
theorem step_cases (s t : State) (h : step s = .next t) :
    (∃ c, s.resets.head? = some (some c) ∧ t = s.takeReset c) ∨
    (∃ a, s.WillComplete a ∧ t = s.takeAnswer.completeScan a) ∨
    (s.NoReset ∧ s.phase = .xferWait ∧ s.answers = [] ∧ t = s.tick) ∨
    (∃ w i, s.WillAccept w ∧ decode w = .ok i ∧ t = s.takeCommand.accept (commandEffect i)) ∨
    (∃ w r, s.WillAccept w ∧ decode w = .error r ∧ t = s.takeCommand.refuseIllegal) ∨
    (s.NoReset ∧ s.phase = .idle ∧ s.commands = [] ∧ t = s.tick) := by
  by_cases hr : s.NoReset
  · simp only [step, s.turn_noReset hr] at h
    cases hp : s.phase with
    | xferWait =>
      cases ha : s.answers.head? with
      | some a =>
        simp only [hp, ha, Host.Outcome.next.injEq] at h
        exact .inr (.inl ⟨a, ⟨hr, hp, ha⟩, h.symm⟩)
      | none =>
        simp only [hp, ha, Host.Outcome.next.injEq] at h
        exact .inr (.inr (.inl ⟨hr, rfl, by simpa using ha, h.symm⟩))
    | idle =>
      cases hc : s.commands.head? with
      | none =>
        simp only [hp, hc, Host.Outcome.next.injEq] at h
        exact .inr (.inr (.inr (.inr (.inr ⟨hr, rfl, by simpa using hc, h.symm⟩))))
      | some w =>
        simp only [hp, hc] at h
        cases hd : decode w with
        | ok i =>
          simp only [hd, exec_eq, Host.Outcome.next.injEq] at h
          exact .inr (.inr (.inr (.inl ⟨w, i, ⟨hr, hp, hc⟩, hd, h.symm⟩)))
        | error r =>
          simp only [hd, Host.Outcome.next.injEq] at h
          exact .inr (.inr (.inr (.inr (.inl ⟨w, r, ⟨hr, hp, hc⟩, hd, h.symm⟩))))
  · rw [State.noReset_iff] at hr
    push Not at hr
    obtain ⟨c, hc⟩ := hr
    simp only [step, s.turn_reset c hc, Host.Outcome.next.injEq] at h
    exact .inl ⟨c, hc, h.symm⟩

end Sys2Proof.Machine
end

