-- ==== Sys2Proof/Laws/Encoding.lean ====
section
/-! SUPPORT. The fields of a command word: each field of a word built from its fields reads back, and a word is built
from its fields. -/

namespace Sys2Proof

/-! ### Fields of a built word -/

@[simp] theorem opcField_commandWord (count pos : Half) (cb : Byte) (opc : BitVec 4) :
    opcField (commandWord count pos cb opc) = opc := by
  refine BitVec.eq_of_getLsbD_eq fun i hi => ?_
  simp only [opcField, commandWord, BitVec.getLsbD_extractLsb', BitVec.getLsbD_append]
  simp [hi]

@[simp] theorem rsv0Field_commandWord (count pos : Half) (cb : Byte) (opc : BitVec 4) :
    rsv0Field (commandWord count pos cb opc) = 0 := by
  refine BitVec.eq_of_getLsbD_eq fun i hi => ?_
  simp only [rsv0Field, commandWord, BitVec.getLsbD_extractLsb', BitVec.getLsbD_append]
  simp [hi]

@[simp] theorem cbField_commandWord (count pos : Half) (cb : Byte) (opc : BitVec 4) :
    cbField (commandWord count pos cb opc) = cb := by
  refine BitVec.eq_of_getLsbD_eq fun i hi => ?_
  simp only [cbField, commandWord, BitVec.getLsbD_extractLsb', BitVec.getLsbD_append]
  grind

@[simp] theorem posField_commandWord (count pos : Half) (cb : Byte) (opc : BitVec 4) :
    posField (commandWord count pos cb opc) = pos := by
  refine BitVec.eq_of_getLsbD_eq fun i hi => ?_
  simp only [posField, commandWord, BitVec.getLsbD_extractLsb', BitVec.getLsbD_append]
  grind

@[simp] theorem countField_commandWord (count pos : Half) (cb : Byte) (opc : BitVec 4) :
    countField (commandWord count pos cb opc) = count := by
  refine BitVec.eq_of_getLsbD_eq fun i hi => ?_
  simp only [countField, commandWord, BitVec.getLsbD_extractLsb', BitVec.getLsbD_append]
  grind

@[simp] theorem rsv1Field_commandWord (count pos : Half) (cb : Byte) (opc : BitVec 4) :
    rsv1Field (commandWord count pos cb opc) = 0 := by
  refine BitVec.eq_of_getLsbD_eq fun i hi => ?_
  simp only [rsv1Field, commandWord, BitVec.getLsbD_extractLsb', BitVec.getLsbD_append]
  grind

/-! ### A word from its fields -/

/-- A word whose two reserved fields are 0 is built from its other fields. -/
theorem commandWord_of_fields (w : Word) (h0 : rsv0Field w = 0) (h1 : rsv1Field w = 0) :
    commandWord (countField w) (posField w) (cbField w) (opcField w) = w := by
  have e0 : commandWord (countField w) (posField w) (cbField w) (opcField w) =
      rsv1Field w ++ countField w ++ posField w ++ cbField w ++ rsv0Field w ++ opcField w := by
    rw [h0, h1]; rfl
  rw [e0]
  refine BitVec.eq_of_getLsbD_eq fun i hi => ?_
  simp only [opcField, rsv0Field, cbField, posField, countField, rsv1Field, BitVec.getLsbD_extractLsb',
    BitVec.getLsbD_append]
  grind

/-- The cell byte's fields read back from its bits. -/
@[simp] theorem CellByte.ofBits_bits (b : CellByte) : CellByte.ofBits b.bits = b := by
  rcases b with ⟨s, b1, b2, b3, b4, b5, b6⟩
  cases s <;> cases b1 <;> cases b2 <;> cases b3 <;> cases b4 <;> cases b5 <;> cases b6 <;> rfl

/-- Every byte is the cell byte of its fields. -/
@[simp] theorem CellByte.bits_ofBits (v : Byte) : (CellByte.ofBits v).bits = v := by
  revert v; decide +kernel

/-! ### Decoding a built word -/

/-- What decoding a word built from its fields can answer: its opcode alone decides, with the fields it must leave 0. -/
theorem decode_commandWord (count pos : Half) (cb : Byte) (opc : BitVec 4) :
    decode (commandWord count pos cb opc) =
      if opc = 1 then .ok (.setCell pos (CellByte.ofBits cb) count)
      else if opc = 2 then (if cb ≠ 0 ∨ count ≠ 0 then .error .unusedField else .ok (.getCell pos))
      else if opc = 3 then (if cb ≠ 0 ∨ pos ≠ 0 ∨ count ≠ 0 then .error .unusedField else .ok .runScan)
      else .error .reservedOpcode := by
  simp only [decode, opcField_commandWord, rsv0Field_commandWord, rsv1Field_commandWord, cbField_commandWord,
    posField_commandWord, countField_commandWord]
  simp

end Sys2Proof
end

