-- ==== Sys2Proof/Laws/PerInstr.lean ====
section
/-! SUPPORT. The laws that are stated for every instruction, one lemma per constructor of `Instr`. -/

namespace Sys2Proof.Laws

/-- The mask of the instruction's row in spec/opcode_table.json: the bits its encoding fixes. -/
def EncodingMatchesTable.mask : Instr → Word
  | .setCell _ _ _ => 0xFFFF0000000000FF
  | .getCell _ => 0xFFFFFFFF0000FFFF
  | .runScan => 0xFFFFFFFFFFFFFFFF

/-- The value its row gives those bits. -/
def EncodingMatchesTable.value : Instr → Word
  | .setCell _ _ _ => 0x0000000000000001
  | .getCell _ => 0x0000000000000002
  | .runScan => 0x0000000000000003

/-- The instruction's encoding has the fixed bits of its opcode-table row (30_encoding.md R82, R84). -/
def EncodingMatchesTable.Statement (i : Instr) : Prop :=
  encode i &&& EncodingMatchesTable.mask i = EncodingMatchesTable.value i

/-- The fixed bits of a word built from its fields. -/
theorem commandWord_and (count pos : Half) (cb : Byte) (opc : BitVec 4) (mcount mpos : Half) (mcb : Byte) :
    commandWord count pos cb opc &&& (0xFFFF#16 ++ mcount ++ mpos ++ mcb ++ 0xF#4 ++ 0xF#4) =
      commandWord (count &&& mcount) (pos &&& mpos) (cb &&& mcb) opc := by
  refine BitVec.eq_of_getLsbD_eq fun i hi => ?_
  have h15 : ∀ k, k < 4 → (0xF#4).getLsbD k = true := by decide
  simp only [commandWord, BitVec.getLsbD_append, BitVec.getLsbD_and, BitVec.getLsbD_zero]
  grind

theorem EncodingMatchesTable.setCell (pos : Half) (cb : CellByte) (count : Half) :
    EncodingMatchesTable.Statement (.setCell pos cb count) := by
  have h := commandWord_and count pos cb.bits 1 0 0 0
  simpa [EncodingMatchesTable.Statement, EncodingMatchesTable.mask, EncodingMatchesTable.value, encode,
    commandWord] using h

theorem EncodingMatchesTable.getCell (pos : Half) : EncodingMatchesTable.Statement (.getCell pos) := by
  have h := commandWord_and 0 pos 0 2 0xFFFF 0 0xFF
  simpa [EncodingMatchesTable.Statement, EncodingMatchesTable.mask, EncodingMatchesTable.value, encode,
    commandWord] using h

theorem EncodingMatchesTable.runScan : EncodingMatchesTable.Statement .runScan := by
  simp [EncodingMatchesTable.Statement, EncodingMatchesTable.mask, EncodingMatchesTable.value, encode, commandWord]

end Sys2Proof.Laws
end

