-- ==== Sys2Proof/Laws/Scan.lean ====
section
/-! SUPPORT. DECODE_CELL on one record, in closed form, and the completion of a scan over a consistent array. -/

namespace Sys2Proof.Machine

/-- The press count after a scan, as a number. -/
theorem pressCount_eq (p : Bool) (n : Half) :
    pressCount p n = BitVec.ofNat 16 (if p then min (n.toNat + 1) 0xFFFF else 0) := by
  cases p with
  | false => rfl
  | true =>
    simp only [pressCount, satInc16, if_true]
    have := n.isLt
    apply BitVec.eq_of_toNat_eq
    split <;> simp [BitVec.toNat_add] <;> omega

theorem pressCount_toNat (p : Bool) (n : Half) :
    (pressCount p n).toNat = if p then min (n.toNat + 1) 0xFFFF else 0 := by
  rw [pressCount_eq]
  cases p with
  | false => rfl
  | true => simp

/-- Everything DECODE_CELL can do to a record, and the events it can append. -/
theorem Cell.scan_eq (threshold : Nat) (p : Bool) (c : Cell) :
    c.scan threshold p =
      ({ c with
        consecutivePressedScans := pressCount p c.consecutivePressedScans
        holdEventPending :=
          (c.notifyOnHold && isHold threshold (pressCount p c.consecutivePressedScans)) ||
            (!(c.notifyOnChange && (p != c.lastScanPressed)) && c.holdEventPending)
        primaryState := if c.toggleMode && p && !c.lastScanPressed then toggle c.primaryState else c.primaryState
        lastScanPressed := p },
       (if c.notifyOnChange && (p != c.lastScanPressed) then
          [{ c with
            holdEventPending := false
            consecutivePressedScans := pressCount p c.consecutivePressedScans }] else []) ++
        (if c.notifyOnHold && isHold threshold (pressCount p c.consecutivePressedScans) then
          [{ c with
            holdEventPending := true
            consecutivePressedScans := pressCount p c.consecutivePressedScans }] else [])) := by
  rcases c with ⟨id, st, lamp, tog, nc, nh, pend, last, count⟩
  generalize hh : isHold threshold (pressCount p count) = h
  cases tog <;> cases nc <;> cases nh <;> cases last <;> cases p <;> cases h <;>
    simp [Cell.scan, Cell.countPress, Cell.changeEvent, Cell.holdEvent, Cell.toggleOn, Cell.remember, isDown, isUp, hh]

@[simp] theorem Cell.scan_id (threshold : Nat) (p : Bool) (c : Cell) : (c.scan threshold p).1.id = c.id := by
  rw [Cell.scan_eq]

@[simp] theorem Cell.scan_lampOn (threshold : Nat) (p : Bool) (c : Cell) :
    (c.scan threshold p).1.lampOn = c.lampOn := by
  rw [Cell.scan_eq]

/-- The decode pass leaves every `id` and every lamp bit. -/
theorem decodePass_ids (rx : List Byte) (s : State) : (decodePass rx s).1.cells.map Cell.id = s.cells.map Cell.id := by
  rw [decodePass_eq]
  refine List.ext_getElem (by simp) fun p h1 h2 => ?_
  simp only [List.getElem_map, List.getElem_mapIdx]
  split <;> simp

theorem decodePass_lamps (rx : List Byte) (s : State) :
    (decodePass rx s).1.cells.map Cell.lampOn = s.cells.map Cell.lampOn := by
  rw [decodePass_eq]
  refine List.ext_getElem (by simp) fun p h1 h2 => ?_
  simp only [List.getElem_map, List.getElem_mapIdx]
  split <;> simp

/-- PACK depends on the lamp bits alone. -/
theorem pack_congr (n : Nat) (a b : List Cell) (h : a.map Cell.lampOn = b.map Cell.lampOn) : pack n a = pack n b := by
  have hb : ∀ i, lampBit a i = lampBit b i := fun i => by
    have := congrArg (fun l => l[i]?) h
    simp only [List.getElem?_map] at this
    simp [lampBit, this]
  funext j
  simp [pack, hb]

/-- A consistent state's array has N_CELLS cells. -/
theorem State.Inv.length_cells {s : State} (h : s.Inv) : s.cells.length = s.cfg.nCells := by
  simpa using congrArg List.length h.1

/-- On an array of N_CELLS cells the decode pass runs DECODE_CELL on every record. -/
theorem decodePass_cells (rx : List Byte) (s : State) (h : s.cells.length = s.cfg.nCells) :
    (decodePass rx s).1.cells = s.cells.mapIdx fun p c => (c.scan s.cfg.holdThreshold (pressed rx p)).1 := by
  rw [decodePass_eq]
  refine List.ext_getElem (by simp) fun p h1 h2 => ?_
  simp at h1 h2
  simp [← h, h1]

end Sys2Proof.Machine
end

