-- ==== Sys2Proof/Tests/Slice0.lean ====
section
/-! SUPPORT. Tests. The expected values are the spec's own: its encodings (30_encoding.md), the examples of its rules,
and 95_test_vectors.md. Then, for each statement with hypotheses, a witness that meets all of them together. -/

namespace Sys2Proof.Tests

open Sys2Proof.Machine

/-! ### The static checks refuse what is ill formed (00_scope.md R7, 20_memory.md R69) -/

theorem test_wf_standard : Config.standard.wellFormed = true := by decide
theorem test_wf_limits :
    ({ nCells := 32767, flash1Period := 2 ^ 32 - 1, flash2Period := 2 ^ 32 - 1, holdThreshold := 65534,
       spiMode := 3, clockRate := 7 } : Config).wellFormed = true := by decide
theorem test_wf_spiMode : ({ nCells := 1, spiMode := 4, clockRate := 0 } : Config).wellFormed = false := by decide
theorem test_wf_no_cells : ({ nCells := 0, spiMode := 0, clockRate := 0 } : Config).wellFormed = false := by decide
theorem test_wf_many_cells :
    ({ nCells := 32768, spiMode := 0, clockRate := 0 } : Config).wellFormed = false := by decide
theorem test_wf_flash1_zero :
    ({ nCells := 1, flash1Period := 0, spiMode := 0, clockRate := 0 } : Config).wellFormed = false := by decide
theorem test_wf_flash1_large :
    ({ nCells := 1, flash1Period := 2 ^ 32, spiMode := 0, clockRate := 0 } : Config).wellFormed = false := by decide
theorem test_wf_flash2_zero :
    ({ nCells := 1, flash2Period := 0, spiMode := 0, clockRate := 0 } : Config).wellFormed = false := by decide
theorem test_wf_flash2_large :
    ({ nCells := 1, flash2Period := 2 ^ 32, spiMode := 0, clockRate := 0 } : Config).wellFormed = false := by decide
theorem test_wf_threshold :
    ({ nCells := 1, holdThreshold := 65535, spiMode := 0, clockRate := 0 } : Config).wellFormed = false := by decide
theorem test_wf_wordSize :
    ({ nCells := 1, spiMode := 0, clockRate := 0, wordSize := 9 } : Config).wellFormed = false := by decide
theorem test_wf_setCell : Instr.wellFormed Config.standard (.setCell 20 (CellByte.ofBits 0) 0) = false := by decide
theorem test_wf_getCell : Instr.wellFormed Config.standard (.getCell 20) = false := by decide
theorem test_wf_last_cell : Instr.wellFormed Config.standard (.getCell 19) = true := by decide

/-! ### Decoding: words written out field by field from R82, RSV1 COUNT POS CB RSV0 OPC -/

/-- CB = LAST_PRESSED, NOTIFY_HOLD, TOGGLE, lamp_on, FLASH1; COUNT 0x8001; POS 0x4002. -/
theorem test_decode_setCell :
    decode (0b0000000000000000#16 ++ 0b1000000000000001#16 ++ 0b0100000000000010#16 ++ 0b10101110#8 ++ 0b0000#4 ++
      0b0001#4) = .ok (.setCell 0x4002 ⟨.flash1, true, true, false, true, false, true⟩ 0x8001) := by decide
theorem test_decode_getCell :
    decode (0b0000000000000000#16 ++ 0b0000000000000000#16 ++ 0b1000000000000101#16 ++ 0b00000000#8 ++ 0b0000#4 ++
      0b0010#4) = .ok (.getCell 0x8005) := by decide
theorem test_decode_runScan :
    decode (0b0000000000000000#16 ++ 0b0000000000000000#16 ++ 0b0000000000000000#16 ++ 0b00000000#8 ++ 0b0000#4 ++
      0b0011#4) = .ok .runScan := by decide
/-- R216's example: OPC 2, POS 0xFFFF and RSV1 not 0. -/
theorem test_decode_reserved : decode 0x00010000FFFF0002 = .error .reservedField := by decide
theorem test_decode_getCell_count : decode 0x0000000100050002 = .error .unusedField := by decide
theorem test_decode_runScan_pos : decode 0x0000000000010003 = .error .unusedField := by decide
theorem test_decode_opcode_four : decode 0x0000000000000004 = .error .reservedOpcode := by decide
/-- The opcode table's numbering: one word of 64 bits, bit 0 its least significant. -/
theorem test_table_word : decodeTableWord 64 0x53801 =
    some (.setCell 5 ⟨.off, false, true, true, true, false, false⟩ 0) := by decide

/-! ### Functions on values -/

/-- 95_test_vectors.md T1. -/
theorem test_rev8 : [0x01, 0x02, 0x0F, 0xDF, 0xA5, 0x12].map rev8 = [0x80, 0x40, 0xF0, 0xFB, 0xA5, 0x48] := by decide
/-- R125's example. -/
theorem test_unpack : (List.range 8).map (pressed [rev8 0xFB]) =
    [false, false, false, false, false, true, false, false] := by decide
/-- R150's example: the event shows the state before the toggle and the old edge memory. -/
theorem test_scan_cell :
    Cell.scan 10 true { Cell.initial 0 with toggleMode := true, notifyOnChange := true } =
      ({ Cell.initial 0 with
          toggleMode := true, notifyOnChange := true, primaryState := .on, consecutivePressedScans := 1,
          lastScanPressed := true },
       [{ Cell.initial 0 with toggleMode := true, notifyOnChange := true, consecutivePressedScans := 1 }]) := by decide
/-- R154: the press counter saturates, and R155: it then still exceeds the largest threshold. -/
theorem test_saturation : pressCount true 0xFFFF = 0xFFFF ∧ isHold 65534 0xFFFF = true := by decide
/-- R97: a literal has a digit, and an underscore stands between two (log entry 8). -/
theorem test_literals :
    [parseLine "GET_CELL _", parseLine "GET_CELL 0x_", parseLine "GET_CELL 1_", parseLine "GET_CELL 0x",
      parseLine "GET_CELL 0x1_3", parseLine ".word64 0x__3"] =
    [.notALine, .notALine, .notALine, .notALine, .command (.getCell 19), .notALine] := by decide
/-- R98 on R188's example. -/
theorem test_response_text : responseText 0x0000000000030001 = some "SNAPSHOT id=3 OFF count=0" := by decide

/-! ### Single steps -/

/-- A block just reset, with `n` cells and the spec's defaults. -/
def fresh (n : Nat) : State := State.construct { nCells := n, spiMode := 0, clockRate := 0 }

/-- The state a step leads to. -/
def after (s : State) : State :=
  match step s with
  | .next t => t
  | .fault _ => s
  | .refused _ => s

/-- R186's example word on cell 5, of 6 cells: the lamp bit and the `id` stay. -/
theorem test_setCell :
    let t := after ((fresh 6).withFetchWord 64 0x53801)
    t.cells[5]? = some ⟨5, .off, false, true, true, true, false, false, 0⟩ ∧ t.responses = [0] := by decide
/-- R87: bit 10 is ignored. -/
theorem test_setCell_lamp :
    (after ((fresh 1).withFetchWord 64 0x0000000000000501)).cells[0]? =
      some { Cell.initial 0 with primaryState := .on } := by decide
/-- R188's example. -/
theorem test_getCell : (after ((fresh 4).withFetchWord 64 0x30002)).responses = [0x0000000000030001] := by
  decide
/-- R211: ERR_INDEX carries POS. -/
theorem test_getCell_past : (after ((fresh 4).withFetchWord 64 0x40002)).responses = [0x0000000000040008] := by
  decide
/-- R124's example, 20 cells with only cell 5 lit: the buffer is in cell order, the link bytes are reversed. -/
theorem test_runScan_issue :
    let s := State.reset.cellWrite 5 { Cell.initial 5 with primaryState := .on }
    let t := after (s.withFetchWord 64 3)
    t.tx = [0x20, 0, 0] ∧ t.linkOut = [[0x04, 0, 0]] ∧ t.phase = .xferWait := by decide +kernel
/-- R182's example: 8 cells, all Off, an answer of 0xFF. -/
theorem test_runScan_complete :
    let t := after (after ({ fresh 8 with answers := [.ok [0xFF]] }.withFetchWord 64 3))
    t.linkOut = [[0x00]] ∧ t.responses = [0] ∧ t.sc = 1 ∧ t.phase = .idle := by decide +kernel

/-! ### Witnesses: the hypotheses of each statement hold together, at the boundary values of its clauses -/

/-- A block of 3 cells whose middle cell flashes, toggles and notifies, one press short of a hold. -/
def busy : State := (fresh 3).setCell 1 ⟨.flash1, false, true, true, true, false, false⟩ 10

/-- The same block, waiting for the transport, which answers `a`. -/
def waiting (a : Answer) : State := { busy.issueScan with answers := [a] }

/-- The same block, offered `ws`, with a transport that answers `a`. -/
def offered (ws : List Word) (a : Answer) : State := { busy with commands := ws, answers := [a] }

/-- A block with a malformed configuration, offered `w`. -/
def faulty (w : Word) : State := { State.construct { nCells := 2, spiMode := 4, clockRate := 0 } with commands := [w] }

theorem witness_ALegalWordIsItsCommandsEncoding : ∃ w i, decode w = .ok i := ⟨3, .runScan, by decide⟩

theorem witness_SetCellOperandsAreTheWordsFields : ∃ w pos cb count, decode w = .ok (.setCell pos cb count) :=
  ⟨0x0000FFFF0013FB01, 19, ⟨.flash2, false, true, true, true, true, true⟩, 0xFFFF, by decide⟩

theorem witness_SetCellReplacesSevenFieldsAndNothingElse :
    busy.Ready ∧ (2#16).toNat < busy.cfg.nCells := by decide

theorem witness_GetCellAnswersTheSnapshotAndChangesNothing :
    ∃ c, busy.Ready ∧ (2#16).toNat < busy.cfg.nCells ∧ busy.cells[(2#16).toNat]? = some c :=
  ⟨Cell.initial 2, by decide⟩

theorem witness_APositionPastTheChainIsAnsweredErrIndex :
    busy.Ready ∧ busy.cfg.nCells ≤ (3#16).toNat ∧ busy.cfg.nCells ≤ (0xFFFF#16).toNat := by decide

theorem witness_GetCellAfterSetCellReadsWhatWasWritten :
    ∃ c t, busy.Ready ∧ (2#16).toNat < busy.cfg.nCells ∧ busy.cells[(2#16).toNat]? = some c ∧
      exec (.setCell 2 (CellByte.ofBits 0xFF) 9) busy = .next t :=
  ⟨Cell.initial 2, _, by decide, by decide +kernel, by decide +kernel, rfl⟩

theorem witness_SetCellIsIdempotent :
    ∃ t u, exec (.setCell 2 (CellByte.ofBits 0xFF) 9) busy = .next t ∧
      exec (.setCell 2 (CellByte.ofBits 0xFF) 9) t = .next u := ⟨_, _, rfl, rfl⟩

theorem witness_TheSetStateSequenceReplacesOnlyThePrimaryState :
    ∃ c ws a, let s := offered (readBeforeWord 1 :: setStateWord (snapshotWord c) .on :: ws) a
      s.Inv ∧ s.Ready ∧ s.resets = [] ∧ s.cells[(1#16).toNat]? = some c ∧
      s.commands = readBeforeWord 1 :: setStateWord (snapshotWord c) .on :: ws :=
  ⟨busy.cellRead 1, [], .fail 0, by decide⟩

theorem witness_ConfigureSetsTheBehaviourAndClearsTheEventMemory :
    let s := offered [configureWord 2 .flash2 true false true] (.fail 0)
    s.NoReset ∧ s.Ready ∧ (2#16).toNat < s.cfg.nCells ∧ s.commands = configureWord 2 .flash2 true false true :: [] := by
  decide

theorem witness_AStepRunsTheDecodedCommand :
    ∃ i, let s := offered [0x20002] (.fail 0)
      s.NoReset ∧ s.phase = .idle ∧ s.commands = 0x20002 :: [] ∧ decode 0x20002 = .ok i :=
  ⟨.getCell 2, by decide⟩

/-- A witness for each clause: RSV0, RSV1, opcode 0, opcodes 4 and 15, CB and COUNT of GET_CELL, POS of RUN_SCAN. -/
theorem witness_AnIllegalWordIsAnsweredErrIllegal :
    (∀ w, let s := offered [w] (.fail 0); s.NoReset ∧ s.Ready ∧ s.commands = w :: []) ∧
    (0x13#64).toNat / 2 ^ 4 % 2 ^ 4 ≠ 0 ∧ (0x0001000000000003#64).toNat / 2 ^ 48 ≠ 0 ∧ (0#64).toNat % 2 ^ 4 = 0 ∧
    4 ≤ (4#64).toNat % 2 ^ 4 ∧ 4 ≤ (15#64).toNat % 2 ^ 4 ∧
    ((0x102#64).toNat % 2 ^ 4 = 2 ∧ (0x102#64).toNat / 2 ^ 8 % 2 ^ 8 ≠ 0) ∧
    ((0x100000002#64).toNat % 2 ^ 4 = 2 ∧ (0x100000002#64).toNat / 2 ^ 32 % 2 ^ 16 ≠ 0) ∧
    ((0x10003#64).toNat % 2 ^ 4 = 3 ∧ (0x10003#64).toNat / 2 ^ 8 % 2 ^ 40 ≠ 0) :=
  ⟨fun _ => ⟨rfl, ⟨rfl, rfl⟩, rfl⟩, by decide⟩

theorem witness_AMalformedConfigurationAnswersEveryWordErrConfig :
    (faulty 3).NoReset ∧ (faulty 3).phase = .idle ∧ (faulty 3).cfgFault = true ∧ (faulty 3).commands = 3 :: [] := by
  decide

theorem witness_ErrIndexOnlyAfterTheOtherChecks :
    ∃ t, let s := offered [0x30002] (.fail 0)
      s.WillAccept 0x30002 ∧ step s = .next t ∧ t.responses = s.responses ++ [(ErrorKind.indexOutOfRange 3).word] :=
  ⟨after (offered [0x30002] (.fail 0)), by decide, rfl, by decide +kernel⟩

theorem witness_ACommandWaitsWhileAScanIsInProgress :
    ∃ t, (waiting (.fail 7)).phase = .xferWait ∧ step (waiting (.fail 7)) = .next t := ⟨_, rfl, rfl⟩

theorem witness_RunScanEncodesAndHandsTheBytesToTheTransport : busy.Inv ∧ busy.Ready := by decide

/-- One cell for each clause of the statement. -/
theorem witness_RunScanLampFollowsThePrimaryState :
    ∀ st : PrimaryState, ∃ c t, let s := (fresh 3).setCell 1 ⟨st, false, false, false, false, false, false⟩ 0
      s.Inv ∧ s.Ready ∧ s.cells[1]? = some c ∧ exec .runScan s = .next t ∧ c.primaryState = st := by
  intro st
  refine ⟨{ Cell.initial 1 with primaryState := st }, _, ?_, ?_, ?_, rfl, rfl⟩ <;> cases st <;> decide

theorem witness_PaddingIsSentAsZero : ∃ t, busy.Inv ∧ busy.Ready ∧ exec .runScan busy = .next t ∧ busy.cfg.nCells ≤ 3 :=
  ⟨_, by decide, by decide +kernel, rfl, by decide +kernel⟩

theorem witness_ASuccessfulScanLeavesEachRecordAsTheEightStepsSay :
    ∃ c, let s := waiting (.ok [0x9F])
      s.Inv ∧ s.WillComplete (.ok [0x9F]) ∧ [(0x9F : Byte)].length = s.cfg.nb ∧ s.cells[1]? = some c :=
  ⟨(waiting (.ok [0x9F])).cellRead 1, by decide⟩

theorem witness_ASuccessfulScanDeliversItsEventsThenDone :
    let s := waiting (.ok [0x9F])
    s.Inv ∧ s.WillComplete (.ok [0x9F]) ∧ [(0x9F : Byte)].length = s.cfg.nb := by decide

theorem witness_AFailedExchangeChangesNothingButThePhase :
    (waiting (.fail 7)).WillComplete (.fail 7) := by decide

theorem witness_AnAnswerOfTheWrongLengthIsAFailure :
    (waiting (.fail 0)).NoReset ∧ (waiting (.fail 0)).phase = .xferWait ∧
    ([] : List Byte).length ≠ (waiting (.fail 0)).cfg.nb ∧ [(0 : Byte), 0].length ≠ (waiting (.fail 0)).cfg.nb := by
  decide

theorem witness_WithoutAnAnswerTheScanWaitsForEver :
    busy.issueScan.phase = .xferWait ∧ busy.issueScan.answers = [] ∧ busy.issueScan.resets = [] := by decide

theorem witness_AWholeScanEncodesThenDecodesEveryCell :
    let s := offered [3, 0x20002] (.ok [0x9F])
    s.Inv ∧ s.Ready ∧ s.resets = [] ∧ s.commands = 0x0000000000000003 :: [0x20002] ∧
      s.answers = .ok [0x9F] :: [] ∧ [(0x9F : Byte)].length = s.cfg.nb := by decide

theorem witness_AFailedScanKeepsOnlyTheEncodePass :
    let s := offered [3, 0x20002] (.fail 7)
    s.Inv ∧ s.Ready ∧ s.resets = [] ∧ s.commands = 0x0000000000000003 :: [0x20002] ∧ s.answers = .fail 7 :: [] := by
  decide

theorem witness_ARetriedScanUndoesTheFlashToggle :
    let s := offered [3, 3] (.fail 7)
    s.Inv ∧ s.Ready ∧ s.resets = [] ∧ s.commands = 0x0000000000000003 :: 0x0000000000000003 :: [] ∧
      s.answers = .fail 7 :: [] := by decide

/-- The middle lamp is lit, so the byte sent is 0x40. -/
theorem witness_AnEchoingTransportPressesTheDarkCells :
    let s := waiting (.ok [0x40])
    s.Inv ∧ s.phase = .xferWait ∧ s.NoReset ∧ s.linkOut = [] ++ [[0x40]] ∧ [0x40] = s.tx.map rev8 ∧
      s.answers.head? = some (.ok [0x40]) := by decide

theorem witness_ReceivedPaddingChangesNothing :
    let s := waiting (.fail 0)
    s.NoReset ∧ s.phase = .xferWait ∧ [(0x80 : Byte)].length = s.cfg.nb ∧ [(0x9F : Byte)].length = s.cfg.nb ∧
      ∀ p, p < s.cfg.nCells →
        ([(0x80 : Byte)].getD (p / 8) 0).getLsbD (7 - p % 8) = ([(0x9F : Byte)].getD (p / 8) 0).getLsbD (7 - p % 8) := by
  decide

theorem witness_EventsAscendAndAChangePrecedesAHold :
    busy.Inv ∧ busy.cfgFault = false ∧ (decodePass [0x00] busy).2.length = 2 := by decide

theorem witness_AtMostTwoEventsPerCell :
    busy.Inv ∧ busy.cfgFault = false ∧ (fresh 3).Inv ∧ (fresh 3).cfgFault = false ∧
      ∀ c ∈ (fresh 3).cells, c.notifyOnChange = false ∧ c.notifyOnHold = false := by decide

theorem witness_HoldEventsStartAfterTheThresholdAndRepeat :
    0 ≤ 65534 ∧ 65534 ≤ 65534 ∧ ({ Cell.initial 0 with notifyOnHold := true } : Cell).consecutivePressedScans = 0 ∧
      ({ Cell.initial 0 with notifyOnHold := true } : Cell).notifyOnHold = true := by decide

theorem witness_AOneScanBlipGivesTwoEvents :
    let c : Cell := { Cell.initial 0 with notifyOnChange := true }
    c.notifyOnChange = true ∧ c.notifyOnHold = false ∧ c.lastScanPressed = false := by decide

/-- A witness for each Flash state, the second at the last scans before the wrap. -/
theorem witness_AFlashLampCountsThePeriodsMultiples :
    (let c : Cell := { Cell.initial 0 with primaryState := .flash1 }
     (c.primaryState = .flash1 ∧ 3 = Config.standard.flash1Period) ∧ c.lampOn = false ∧ 0 + 5 < 2 ^ 32) ∧
    (let c : Cell := { Cell.initial 0 with primaryState := .flash2 }
     (c.primaryState = .flash2 ∧ 1 = Config.standard.flash2Period) ∧ c.lampOn = false ∧
       (2 ^ 32 - 2) + 1 < 2 ^ 32) := by decide

theorem witness_Rev8ReversesTheBits : 0 < 8 ∧ 7 < 8 := by decide

theorem witness_APackedLampBitReadsBack :
    ∃ c, 2 < 3 ∧ (fresh 3).cells[2]? = some c := ⟨Cell.initial 2, by decide⟩

theorem witness_ResetAbandonsAScanInProgress :
    { waiting (.fail 7) with resets := [some Config.standard] }.resets = some Config.standard :: [] := rfl

theorem witness_EveryStepKeepsTheBlockConsistent :
    ∃ t, (waiting (.ok [0x9F])).Inv ∧ step (waiting (.ok [0x9F])) = .next t := ⟨_, by decide, rfl⟩

theorem witness_OnlyTheEncodePassWritesLamps :
    ∃ t, let s := offered [3] (.fail 0)
      step s = .next t ∧ s.NoReset ∧ t.cells.map Cell.lampOn ≠ s.cells.map Cell.lampOn :=
  ⟨after (offered [3] (.fail 0)), rfl, by decide, by decide +kernel⟩

theorem witness_IdsAndConfigurationAreFixedBetweenResets :
    ∃ t, step (waiting (.ok [0x9F])) = .next t ∧ (waiting (.ok [0x9F])).NoReset := ⟨_, rfl, rfl⟩

theorem witness_OnlySetCellWritesBehaviourFlags :
    ∃ t c d, let s := offered [0x0000000000020801] (.fail 0)
      step s = .next t ∧ s.NoReset ∧ s.cells[2]? = some c ∧ t.cells[2]? = some d ∧
      ¬ (d.toggleMode = c.toggleMode ∧ d.notifyOnChange = c.notifyOnChange ∧ d.notifyOnHold = c.notifyOnHold) :=
  ⟨after (offered [0x0000000000020801] (.fail 0)), Cell.initial 2, { Cell.initial 2 with toggleMode := true },
    rfl, by decide, by decide +kernel, by decide +kernel, by decide +kernel⟩

/-- The scan counter advances in the first step and not in the second. -/
theorem witness_TheScanCounterCountsSuccessfulScans :
    ∃ t u, step (waiting (.ok [0x9F])) = .next t ∧ (waiting (.ok [0x9F])).NoReset ∧
      step (waiting (.ok [])) = .next u ∧ (waiting (.ok [])).NoReset := ⟨_, _, rfl, rfl, rfl, rfl⟩

theorem witness_OneTransportCallPerAcceptedScan :
    ∃ t, (offered [3] (.fail 0)).Inv ∧ step (offered [3] (.fail 0)) = .next t := ⟨_, by decide, rfl⟩

theorem witness_ResponsesAreOnlyAppended : ∃ t, step (offered [0x30002] (.fail 0)) = .next t := ⟨_, rfl⟩

end Sys2Proof.Tests
end

section
/-! The events of a decode pass, counted (42_input_decoder.md R158, R159, R164): first on one record, then over the
chain, whose ids are pairwise different because a well-formed chain is shorter than 2^16. -/

namespace Sys2Proof.Machine

/-! ### The events of DECODE_CELL on one record -/

/-- Steps 5 and 6 append at most one event each (R158, R159). -/
theorem Cell.scan_events_length_le (threshold : Nat) (p : Bool) (c : Cell) :
    (c.scan threshold p).2.length ≤ 2 := by
  rw [Cell.scan_eq, List.length_append]
  have hone : ∀ (b : Prop) [Decidable b] (e : Cell), (if b then [e] else []).length ≤ 1 := by
    intro b _ e
    split <;> simp
  exact Nat.add_le_add (hone _ _) (hone _ _)

theorem Cell.scan_events_id {threshold : Nat} {p : Bool} {c e : Cell} (h : e ∈ (c.scan threshold p).2) :
    e.id = c.id := by
  simp only [Cell.scan_eq, List.mem_append, List.mem_ite_nil_right, List.mem_singleton] at h
  obtain ⟨-, rfl⟩ | ⟨-, rfl⟩ := h <;> rfl

theorem Cell.scan_events_eq_nil (threshold : Nat) (p : Bool) {c : Cell} (hchange : c.notifyOnChange = false)
    (hhold : c.notifyOnHold = false) : (c.scan threshold p).2 = [] := by
  simp [Cell.scan_eq, hchange, hhold]

/-- The events a record appends under the id `q`: none unless `q` is its own. -/
theorem Cell.scan_events_countP_id_le (threshold : Nat) (p : Bool) (c : Cell) (q : Half) :
    (c.scan threshold p).2.countP (fun e => e.id == q) ≤ if c.id == q then 2 else 0 := by
  split
  · exact List.countP_le_length.trans (c.scan_events_length_le threshold p)
  · next hne =>
    refine (List.countP_eq_zero.mpr fun e he => ?_).le
    rwa [Cell.scan_events_id he]

/-! ### The cells and the configuration of a consistent state -/

theorem State.cellRead_mem (s : State) {p : Nat} (h : p < s.cells.length) : s.cellRead p ∈ s.cells :=
  cellRead_of_getElem? s p _ (List.getElem?_eq_getElem h) ▸ List.getElem_mem h

/-- In a consistent state the cell read at a position of the chain has that position as its id (R32). -/
theorem State.Inv.cellRead_id {s : State} (h : s.Inv) {p : Nat} (hp : p < s.cfg.nCells) :
    (s.cellRead p).id = BitVec.ofNat 16 p := by
  have hlt : p < s.cells.length := h.length_cells.symm ▸ hp
  have hids := congrArg (·[p]?) h.1
  rw [cellRead_of_getElem? s p _ (List.getElem?_eq_getElem hlt)]
  simpa [hlt, hp] using hids

/-- N_CELLS is in its legal range when `cfg_fault` is 0 (R45, R241). -/
theorem State.Inv.nCells_bounds {s : State} (h : s.Inv) (hf : s.cfgFault = false) :
    1 ≤ s.cfg.nCells ∧ s.cfg.nCells ≤ 32767 := by
  obtain ⟨-, -, hmatch, -⟩ := h
  have hlegal : s.cfg.nCellsLegal = true := by
    rw [State.FaultBitMatches, hf] at hmatch
    simp only [Config.malformed, Bool.false_eq, Bool.not_eq_false', Bool.and_eq_true] at hmatch
    obtain ⟨⟨⟨⟨⟨-, hn⟩, -⟩, -⟩, -⟩, -⟩ := hmatch
    exact hn
  simpa [Config.nCellsLegal] using hlegal

/-- At most one position of a chain of at most 2^16 cells has a given 16-bit id. -/
theorem countP_range_ofNat_le_one (q : Half) {n : Nat} (hn : n ≤ 2 ^ 16) :
    (List.range n).countP (fun p => BitVec.ofNat 16 p == q) ≤ 1 := by
  have hsame : ∀ p ∈ List.range n, (BitVec.ofNat 16 p == q) = true ↔ (p == q.toNat) = true := by
    intro p hp
    have hlt : p < 2 ^ 16 := (List.mem_range.mp hp).trans_le hn
    rw [beq_iff_eq, beq_iff_eq, ← BitVec.toNat_inj, BitVec.toNat_ofNat, Nat.mod_eq_of_lt hlt]
  rw [List.countP_congr hsame]
  exact List.nodup_iff_count_le_one.mp List.nodup_range q.toNat

/-! ### The events of a decode pass -/

/-- Counting in a concatenation whose parts each contribute at most `k`, and nothing unless selected by `Q`. -/
theorem countP_flatMap_le {α β : Type} {f : α → List β} {P : β → Bool} {Q : α → Bool} {k : Nat} {l : List α}
    (h : ∀ a ∈ l, (f a).countP P ≤ if Q a then k else 0) : (l.flatMap f).countP P ≤ k * l.countP Q := by
  induction l with
  | nil => simp
  | cons a l ih =>
    have hhead := h a List.mem_cons_self
    have htail := ih fun b hb => h b (List.mem_cons_of_mem a hb)
    rw [List.flatMap_cons, List.countP_append, List.countP_cons, Nat.mul_add]
    split at hhead
    · next hq => rw [if_pos hq]; omega
    · next hq => rw [if_neg hq]; omega

theorem decodePass_events (rx : List Byte) (s : State) :
    (decodePass rx s).2 = (List.range s.cfg.nCells).flatMap fun p =>
      ((s.cellRead p).scan s.cfg.holdThreshold (pressed rx p)).2 := by
  rw [decodePass_eq]

theorem decodePass_events_length_le (rx : List Byte) (s : State) :
    (decodePass rx s).2.length ≤ 2 * s.cfg.nCells := by
  rw [decodePass_events, List.length_flatMap]
  refine (List.sum_le_card_nsmul _ 2 fun n hn => ?_).trans_eq (by simp [Nat.mul_comm])
  obtain ⟨p, -, rfl⟩ := List.mem_map.mp hn
  exact Cell.scan_events_length_le ..

/-- Only the cell with id `q` appends events with id `q`, and there is at most one such cell. -/
theorem decodePass_events_countP_id_le (rx : List Byte) {s : State} (h : s.Inv) (hn : s.cfg.nCells ≤ 2 ^ 16)
    (q : Half) : (decodePass rx s).2.countP (fun e => e.id == q) ≤ 2 := by
  have hcell : ∀ p ∈ List.range s.cfg.nCells,
      ((s.cellRead p).scan s.cfg.holdThreshold (pressed rx p)).2.countP (fun e => e.id == q) ≤
        if BitVec.ofNat 16 p == q then 2 else 0 := fun p hp =>
    h.cellRead_id (List.mem_range.mp hp) ▸ Cell.scan_events_countP_id_le ..
  calc (decodePass rx s).2.countP (fun e => e.id == q)
      ≤ 2 * (List.range s.cfg.nCells).countP (fun p => BitVec.ofNat 16 p == q) :=
        decodePass_events rx s ▸ countP_flatMap_le hcell
    _ ≤ 2 * 1 := Nat.mul_le_mul_left 2 (countP_range_ofNat_le_one q hn)

theorem decodePass_events_eq_nil (rx : List Byte) {s : State} (hlen : s.cells.length = s.cfg.nCells)
    (hflags : ∀ c ∈ s.cells, c.notifyOnChange = false ∧ c.notifyOnHold = false) : (decodePass rx s).2 = [] := by
  rw [decodePass_events, List.flatMap_eq_nil_iff]
  intro p hp
  obtain ⟨hchange, hhold⟩ := hflags _ (s.cellRead_mem (hlen ▸ List.mem_range.mp hp))
  exact Cell.scan_events_eq_nil _ _ hchange hhold

/-- Settles O38: the counts over the chain, from the at most two events of one record and the ids being the
positions. -/
theorem atMostTwoEventsPerCell : Obligations.AtMostTwoEventsPerCell := by
  intro s rx hinv hfault
  obtain ⟨-, hmax⟩ := hinv.nCells_bounds hfault
  have hid := decodePass_events_countP_id_le rx hinv (by omega)
  exact ⟨hid, decodePass_events_length_le rx s, by omega, decodePass_events_eq_nil rx hinv.length_cells⟩

end Sys2Proof.Machine
end

section
/-! What the three writers of the cell array leave in every record (10_state.md R32 to R36): SET_CELL's write, the
encode pass and the decode pass, each for every function of a record that the writer does not change. -/

namespace Sys2Proof.Machine

theorem map_modify_of_comp {α β : Type} {f : α → β} {g : α → α} (h : ∀ a, f (g a) = f a) (l : List α) (p : Nat) :
    (l.modify p g).map f = l.map f := by
  refine List.ext_getElem (by simp) fun q _ _ => ?_
  simp only [List.getElem_map, List.getElem_modify]
  split
  · exact h _
  · rfl

theorem map_mapIdx_of_comp {α β : Type} {f : α → β} {g : Nat → α → α} (h : ∀ p a, f (g p a) = f a) (l : List α) :
    (l.mapIdx g).map f = l.map f :=
  List.ext_getElem (by simp) fun q _ _ => by simp [h]

/-- SET_CELL writes one record, keeping what its operands do not say (R186). -/
theorem configure_map {β : Type} {f : Cell → β} {cb : CellByte} {count : Half}
    (h : ∀ c, f (c.configure cb count) = f c) (cells : List Cell) (p : Nat) :
    (cells.modify p fun c => c.configure cb count).map f = cells.map f :=
  map_modify_of_comp h cells p

/-- The encode pass writes no field but `lamp_on` (R130). -/
theorem encodePass_map {β : Type} {f : Cell → β} (h : ∀ c lamp, f { c with lampOn := lamp } = f c) (s : State) :
    (encodePass s).cells.map f = s.cells.map f := by
  rw [encodePass_eq]
  refine map_mapIdx_of_comp (fun p c => ?_) s.cells
  split
  · exact h c _
  · rfl

/-- The decode pass does to a record nothing but DECODE_CELL (R163). -/
theorem decodePass_map {β : Type} {f : Cell → β} (h : ∀ threshold p c, f (Cell.scan threshold p c).1 = f c)
    (rx : List Byte) (s : State) : (decodePass rx s).1.cells.map f = s.cells.map f := by
  rw [decodePass_eq]
  refine map_mapIdx_of_comp (fun p c => ?_) s.cells
  split
  · exact h _ _ c
  · rfl

/-- The three behaviour flags of a record (R34, R35, R36). -/
def Cell.behaviour (c : Cell) : Bool × Bool × Bool := (c.toggleMode, c.notifyOnChange, c.notifyOnHold)

theorem Cell.behaviour_eq_iff (c d : Cell) : d.behaviour = c.behaviour ↔
    d.toggleMode = c.toggleMode ∧ d.notifyOnChange = c.notifyOnChange ∧ d.notifyOnHold = c.notifyOnHold := by
  simp [Cell.behaviour]

theorem Cell.scan_behaviour (threshold : Nat) (p : Bool) (c : Cell) :
    (c.scan threshold p).1.behaviour = c.behaviour := by
  rw [Cell.scan_eq]
  rfl

end Sys2Proof.Machine
end

section
/-! What one step without reset does to the block's own state, said once, with the ports left out: nothing but the
end of a command, SET_CELL's write, the issue step, or the completion of a successful scan. -/

namespace Sys2Proof.Machine

/-- RUN_SCAN has one command word (30_encoding.md R82, R86). -/
theorem eq_of_decode_runScan {w : Word} (h : decode w = .ok .runScan) : w = 0x0000000000000003 := by
  unfold decode at h
  split_ifs at h with hrsv _ _ _ hopc hfields <;> cases h
  push Not at hrsv hfields
  obtain ⟨hcb, hpos, hcount⟩ := hfields
  rw [← commandWord_of_fields w hrsv.1 hrsv.2, hopc, hcb, hpos, hcount]
  rfl

/-- The issue step reads nothing of the ports. -/
theorem State.takeCommand_issueScan_sameBlock (s : State) : s.issueScan.SameBlock s.takeCommand.issueScan := by
  simp only [State.issueScan_eq, encodePass_eq]
  exact ⟨rfl, rfl, rfl, rfl, rfl, rfl⟩

/-- The completion step reads nothing of the ports but the answer it is given. -/
theorem State.takeAnswer_finishScan_sameBlock (s : State) (bytes : List Byte) :
    (s.finishScan bytes).SameBlock (s.takeAnswer.finishScan bytes) := by
  simp only [State.finishScan_eq, decodePass_eq]
  exact ⟨rfl, rfl, rfl, rfl, rfl, rfl⟩

/-- What a step without reset can do to the block. -/
inductive BlockStep (s t : State) : Prop where
  /-- only the phase may change, to `IDLE`: a wait, a read, or an error word -/
  | quiet (phase : t.phase = .idle ∨ t.phase = s.phase) (block : { s with phase := t.phase }.SameBlock t)
  /-- SET_CELL of a position of the chain -/
  | setCell {w : Word} {pos count : Half} {cb : CellByte} (ready : s.Ready) (accepts : s.WillAccept w)
      (decodes : decode w = .ok (.setCell pos cb count))
      (block : { s with cells := s.cells.modify pos.toNat fun c => c.configure cb count }.SameBlock t)
  /-- the issue step of a RUN_SCAN -/
  | issue (ready : s.Ready) (accepts : s.WillAccept 0x0000000000000003) (block : s.issueScan.SameBlock t)
  /-- the completion step of a successful scan -/
  | finish {bytes : List Byte} (completes : s.WillComplete (.ok bytes)) (length : bytes.length = s.cfg.nb)
      (block : (s.finishScan bytes).SameBlock t)

/-- An error word ends the command and leaves the rest of the block (60_exceptions.md R210, R218). -/
theorem BlockStep.of_raise {s u : State} (h : s.SameBlock u) (e : ErrorKind) : BlockStep s (u.raise e) := by
  obtain ⟨hcfg, hcells, hsc, htx, -, hfault⟩ := h
  exact .quiet (.inl rfl) ⟨hcfg, hcells, hsc, htx, rfl, hfault⟩

theorem BlockStep.of_sameBlock {s t : State} (h : s.SameBlock t) : BlockStep s t := by
  obtain ⟨hcfg, hcells, hsc, htx, hphase, hfault⟩ := h
  exact .quiet (.inr hphase) ⟨hcfg, hcells, hsc, htx, rfl, hfault⟩

theorem State.sameBlock_tick (s : State) : s.SameBlock s.tick := ⟨rfl, rfl, rfl, rfl, rfl, rfl⟩
theorem State.sameBlock_takeCommand (s : State) : s.SameBlock s.takeCommand := ⟨rfl, rfl, rfl, rfl, rfl, rfl⟩
theorem State.sameBlock_takeAnswer (s : State) : s.SameBlock s.takeAnswer := ⟨rfl, rfl, rfl, rfl, rfl, rfl⟩

/-- A decoded command that a ready block has taken. -/
theorem BlockStep.of_commandEffect {s : State} {w : Word} {i : Instr} (hready : s.Ready) (hw : s.WillAccept w)
    (hd : decode w = .ok i) : BlockStep s (commandEffect i s.takeCommand) := by
  cases i with
  | setCell pos cb count =>
    change BlockStep s (s.takeCommand.setCell pos cb count)
    obtain ⟨-, heq⟩ | ⟨-, heq⟩ := s.takeCommand.setCell_cases pos cb count <;> rw [heq]
    · exact .setCell hready hw hd ⟨rfl, rfl, rfl, rfl, rfl, rfl⟩
    · exact .of_raise s.sameBlock_takeCommand _
  | getCell pos =>
    change BlockStep s (s.takeCommand.getCell pos)
    obtain ⟨-, heq⟩ | ⟨-, heq⟩ := s.takeCommand.getCell_cases pos <;> rw [heq]
    · exact .of_sameBlock ⟨rfl, rfl, rfl, rfl, rfl, rfl⟩
    · exact .of_raise s.sameBlock_takeCommand _
  | runScan => exact .issue hready (eq_of_decode_runScan hd ▸ hw) s.takeCommand_issueScan_sameBlock

/-- The check of `cfg_fault` in front of a command that an `IDLE` block has taken (R181). -/
theorem BlockStep.of_accept {s : State} {w : Word} {run : State → State} (hw : s.WillAccept w)
    (hrun : s.Ready → BlockStep s (run s.takeCommand)) : BlockStep s (s.takeCommand.accept run) := by
  obtain ⟨-, hidle, -⟩ := hw
  cases hf : s.cfgFault with
  | true =>
    rw [s.takeCommand.accept_fault run hidle hf]
    exact .of_raise s.sameBlock_takeCommand _
  | false =>
    rw [s.takeCommand.accept_ready run ⟨hidle, hf⟩]
    exact hrun ⟨hidle, hf⟩

theorem BlockStep.of_completeScan {s : State} {a : Answer} (h : s.WillComplete a) :
    BlockStep s (s.takeAnswer.completeScan a) := by
  obtain ⟨bytes, rfl, hlen, heq⟩ | ⟨reason, heq⟩ := s.takeAnswer.completeScan_cases a <;> rw [heq]
  · exact .finish h hlen (s.takeAnswer_finishScan_sameBlock bytes)
  · exact .of_raise s.sameBlock_takeAnswer _

/-- A step resets the block, or is one of the cases of `BlockStep`. -/
theorem reset_or_blockStep_of_step {s t : State} (h : step s = .next t) :
    (∃ c, s.resets.head? = some (some c) ∧ (State.construct c).SameBlock t) ∨ BlockStep s t := by
  obtain ⟨c, hc, rfl⟩ | ⟨a, ha, rfl⟩ | ⟨-, -, -, rfl⟩ | ⟨w, i, hw, hd, rfl⟩ | ⟨w, r, hw, -, rfl⟩ | ⟨-, -, -, rfl⟩ :=
    step_cases s t h
  · exact .inl ⟨c, hc, rfl, rfl, rfl, rfl, rfl, rfl⟩
  · exact .inr (.of_completeScan ha)
  · exact .inr (.of_sameBlock s.sameBlock_tick)
  · exact .inr (.of_accept hw fun hready => .of_commandEffect hready hw hd)
  · exact .inr (.of_accept hw fun _ => .of_raise s.sameBlock_takeCommand _)
  · exact .inr (.of_sameBlock s.sameBlock_tick)

theorem blockStep_of_step {s t : State} (h : step s = .next t) (hr : s.NoReset) : BlockStep s t :=
  (reset_or_blockStep_of_step h).resolve_left fun ⟨c, hc, _⟩ => s.noReset_iff.mp hr c hc

end Sys2Proof.Machine
end

section
/-! The invariant of the block (10_state.md R32, R40, R42, R43, R45, 70_reset_and_hazards.md R241): reset
establishes it and every writer of the block's state keeps it. -/

namespace Sys2Proof.Machine

/-- The invariant is about the block alone, not about its ports. -/
theorem State.Inv.of_sameBlock {s t : State} (hb : s.SameBlock t) (h : s.Inv) : t.Inv := by
  obtain ⟨hcfg, hcells, hsc, htx, hphase, hfault⟩ := hb
  simpa only [State.Inv, State.IdsArePositions, State.TxIsPacked, State.FaultBitMatches, State.FaultyIsInert, hcfg,
    hcells, hsc, htx, hphase, hfault] using h

theorem pack_initial (n m j : Nat) : pack n ((List.range m).map Cell.initial) j = 0 := by
  refine byte_ext _ _ fun k hk => ?_
  have hdark : lampBit ((List.range m).map Cell.initial) (8 * j + k) = false := by
    rw [lampBit, List.getElem?_map, Option.map_map]
    cases (List.range m)[8 * j + k]? <;> rfl
  simp [pack_getLsbD _ _ _ _ hk, hdark]

/-- Every reset gives a consistent block, whatever its configuration (R49). -/
theorem State.construct_inv (c : Config) : (State.construct c).Inv := by
  refine ⟨?ids, ?tx, rfl, fun _ => ⟨rfl, rfl, rfl⟩⟩
  case ids =>
    rw [State.IdsArePositions, State.construct_cells, List.map_map]
    rfl
  case tx =>
    rw [State.TxIsPacked, State.construct_tx, State.construct_cells, funext (pack_initial _ _)]
    simp

/-- Going back to `IDLE` keeps the invariant. -/
theorem State.Inv.setPhase {s : State} (h : s.Inv) {ph : Phase} (hph : ph = .idle ∨ ph = s.phase) :
    { s with phase := ph }.Inv := by
  obtain ⟨hids, htx, hmatch, hinert⟩ := h
  refine ⟨hids, htx, hmatch, fun hf => ?_⟩
  obtain ⟨hidle, hrest⟩ := hinert hf
  exact ⟨hph.elim id (·.trans hidle), hrest⟩

/-- A waiting block has a well-formed configuration. -/
theorem State.Inv.not_fault_of_xferWait {s : State} (h : s.Inv) (hp : s.phase = .xferWait) : s.cfgFault = false := by
  obtain ⟨-, -, -, hinert⟩ := h
  by_contra hf
  obtain ⟨hidle, -⟩ := hinert (by simpa using hf)
  cases hp.symm.trans hidle

/-- A block with a well-formed configuration is consistent when its ids are the positions and `tx` is PACK. -/
theorem State.inv_of_not_fault {s : State} (hf : s.cfgFault = false) (hids : s.IdsArePositions)
    (htx : s.TxIsPacked) (hmatch : s.FaultBitMatches) : s.Inv :=
  ⟨hids, htx, hmatch, fun h => absurd (hf.symm.trans h) Bool.false_ne_true⟩

/-- SET_CELL's write keeps the ids and the lamp bits (R186). -/
theorem State.Inv.configure {s : State} (h : s.Inv) (hf : s.cfgFault = false) (p : Nat) (cb : CellByte)
    (count : Half) : { s with cells := s.cells.modify p fun c => c.configure cb count }.Inv := by
  obtain ⟨hids, htx, hmatch, -⟩ := h
  refine State.inv_of_not_fault hf ?ids ?tx hmatch
  case ids => exact (configure_map (fun _ => rfl) s.cells p).trans hids
  case tx =>
    rw [State.TxIsPacked, pack_congr _ _ s.cells (configure_map (fun _ => rfl) s.cells p)]
    exact htx

/-- The issue step writes each lamp bit in the record and in `tx` alike (R130). -/
theorem State.Inv.issueScan {s : State} (h : s.Inv) (hf : s.cfgFault = false) : s.issueScan.Inv := by
  have hlen := h.length_cells
  obtain ⟨hids, htx, hmatch, -⟩ := h
  rw [State.issueScan_eq]
  exact State.inv_of_not_fault hf ((encodePass_map (fun _ _ => rfl) s).trans hids) (encodePass_tx s hlen htx) hmatch

/-- The completion step writes neither an id nor a lamp bit (42_input_decoder.md R150). -/
theorem State.Inv.finishScan {s : State} (h : s.Inv) (hf : s.cfgFault = false) (bytes : List Byte) :
    (s.finishScan bytes).Inv := by
  obtain ⟨hids, htx, hmatch, -⟩ := h
  rw [State.finishScan_eq]
  refine State.inv_of_not_fault hf ((decodePass_ids _ s).trans hids) ?tx hmatch
  case tx =>
    rw [State.TxIsPacked, pack_congr _ _ s.cells (decodePass_lamps _ s)]
    exact htx

theorem State.Inv.blockStep {s t : State} (h : s.Inv) (hst : BlockStep s t) : t.Inv := by
  cases hst with
  | quiet phase block => exact .of_sameBlock block (h.setPhase phase)
  | setCell ready _ _ block => exact .of_sameBlock block (h.configure ready.2 ..)
  | issue ready _ block => exact .of_sameBlock block (h.issueScan ready.2)
  | finish completes _ block =>
    obtain ⟨-, hwait, -⟩ := completes
    exact .of_sameBlock block (h.finishScan (h.not_fault_of_xferWait hwait) _)

/-- Settles O51: a reset gives a consistent block, and every other step is one of the cases of `BlockStep`. -/
theorem everyStepKeepsTheBlockConsistent : Obligations.EveryStepKeepsTheBlockConsistent := by
  intro s t hinv hstep
  obtain ⟨c, -, hreset⟩ | hblock := reset_or_blockStep_of_step hstep
  · exact (State.construct_inv c).of_sameBlock hreset
  · exact hinv.blockStep hblock

end Sys2Proof.Machine
end

section
/-! Who writes what between resets (10_state.md R32 to R36, R40, R41, R45, R46), read off the cases of `BlockStep`,
and what reset leaves (R49, 70_reset_and_hazards.md R240, R241). -/

namespace Sys2Proof.Machine

/-! ### The two steps of a scan, field by field -/

@[simp] theorem State.issueScan_cfg (s : State) : s.issueScan.cfg = s.cfg := by rw [State.issueScan_eq]
@[simp] theorem State.issueScan_cells (s : State) : s.issueScan.cells = (encodePass s).cells := by
  rw [State.issueScan_eq]
@[simp] theorem State.issueScan_sc (s : State) : s.issueScan.sc = s.sc := by rw [State.issueScan_eq]
@[simp] theorem State.issueScan_phase (s : State) : s.issueScan.phase = .xferWait := by rw [State.issueScan_eq]
@[simp] theorem State.issueScan_cfgFault (s : State) : s.issueScan.cfgFault = s.cfgFault := by
  rw [State.issueScan_eq]

@[simp] theorem State.finishScan_cfg (s : State) (bytes : List Byte) : (s.finishScan bytes).cfg = s.cfg := by
  rw [State.finishScan_eq]
@[simp] theorem State.finishScan_cells (s : State) (bytes : List Byte) :
    (s.finishScan bytes).cells = (decodePass (reverseBytes bytes) s).1.cells := by
  rw [State.finishScan_eq]
@[simp] theorem State.finishScan_cfgFault (s : State) (bytes : List Byte) :
    (s.finishScan bytes).cfgFault = s.cfgFault := by
  rw [State.finishScan_eq]

/-- `wrap_inc32` (00_scope.md R11) is addition modulo 2^32. -/
theorem wrapInc32_eq (x : ScanCount) : wrapInc32 x = x + 1 :=
  BitVec.eq_of_toNat_eq (by simp [wrapInc32, BitVec.toNat_add])

@[simp] theorem State.finishScan_sc (s : State) (bytes : List Byte) : (s.finishScan bytes).sc = s.sc + 1 := by
  rw [State.finishScan_eq, wrapInc32_eq]

/-! ### The cell array in one step -/

/-- What a step without reset can do to the cell array. -/
theorem BlockStep.cells_cases {s t : State} (h : BlockStep s t) :
    t.cells = s.cells ∨
    (∃ w pos cb count, s.WillAccept w ∧ decode w = .ok (.setCell pos cb count) ∧
      t.cells = s.cells.modify pos.toNat fun c => c.configure cb count) ∨
    (s.Ready ∧ s.WillAccept 0x0000000000000003 ∧ t.phase = .xferWait ∧ t.cells = (encodePass s).cells) ∨
    (∃ rx, t.cells = (decodePass rx s).1.cells) := by
  cases h with
  | quiet _ block =>
    obtain ⟨-, hcells, -⟩ := block
    exact .inl hcells
  | setCell _ accepts decodes block =>
    obtain ⟨-, hcells, -⟩ := block
    exact .inr (.inl ⟨_, _, _, _, accepts, decodes, hcells⟩)
  | issue ready accepts block =>
    obtain ⟨-, hcells, -, -, hphase, -⟩ := block
    exact .inr (.inr (.inl ⟨ready, accepts, by simp [hphase], by simp [hcells]⟩))
  | finish _ _ block =>
    obtain ⟨-, hcells, -⟩ := block
    exact .inr (.inr (.inr ⟨_, by rw [hcells, State.finishScan_cells]⟩))

theorem BlockStep.ids_eq {s t : State} (h : BlockStep s t) : t.cells.map Cell.id = s.cells.map Cell.id := by
  obtain heq | ⟨-, pos, cb, count, -, -, heq⟩ | ⟨-, -, -, heq⟩ | ⟨rx, heq⟩ := h.cells_cases <;> rw [heq]
  · exact configure_map (fun _ => rfl) s.cells _
  · exact encodePass_map (fun _ _ => rfl) s
  · exact decodePass_ids rx s

/-- Settles O53: SET_CELL's write and the decode pass keep every lamp bit, so what is left is the encode pass. -/
theorem onlyTheEncodePassWritesLamps : Obligations.OnlyTheEncodePassWritesLamps := by
  intro s t hstep hr hlamps
  obtain heq | ⟨-, pos, cb, count, -, -, heq⟩ | ⟨hready, ⟨-, -, hcmd⟩, hphase, -⟩ | ⟨rx, heq⟩ :=
    (blockStep_of_step hstep hr).cells_cases
  · exact absurd (by rw [heq]) hlamps
  · exact absurd (heq ▸ configure_map (fun _ => rfl) s.cells _) hlamps
  · exact ⟨hready, hcmd, hphase⟩
  · exact absurd (heq ▸ decodePass_lamps rx s) hlamps

theorem eq_at_of_map_eq {α β : Type} {f : α → β} {l m : List α} {p : Nat} {a b : α} (h : m.map f = l.map f)
    (ha : l[p]? = some a) (hb : m[p]? = some b) : f b = f a := by
  simpa [ha, hb] using congrArg (·[p]?) h

/-- Settles O55: both passes keep every behaviour flag, and SET_CELL writes no record but the one it names. -/
theorem onlySetCellWritesBehaviourFlags : Obligations.OnlySetCellWritesBehaviourFlags := by
  intro s t p c d hstep hr hc hd hflags
  rw [← Cell.behaviour_eq_iff] at hflags
  have hwritten : t.cells.map Cell.behaviour ≠ s.cells.map Cell.behaviour := fun h =>
    hflags (eq_at_of_map_eq h hc hd)
  obtain heq | ⟨w, pos, cb, count, hw, hdec, heq⟩ | ⟨-, -, -, heq⟩ | ⟨rx, heq⟩ :=
    (blockStep_of_step hstep hr).cells_cases
  · exact absurd (by rw [heq]) hwritten
  · refine ⟨w, pos, cb, count, hw, hdec, ?_⟩
    by_contra hne
    rw [heq, List.getElem?_modify_ne _ _ hne, hc, Option.some_inj] at hd
    exact hflags (hd ▸ rfl)
  · exact absurd (heq ▸ encodePass_map (fun _ _ => rfl) s) hwritten
  · exact absurd (heq ▸ decodePass_map Cell.scan_behaviour rx s) hwritten

/-! ### The configuration and the scan counter -/

theorem BlockStep.cfg_eq {s t : State} (h : BlockStep s t) : t.cfg = s.cfg ∧ t.cfgFault = s.cfgFault := by
  cases h with
  | quiet _ block | setCell _ _ _ block | issue _ _ block | finish _ _ block =>
    obtain ⟨hcfg, -, -, -, -, hfault⟩ := block
    simp [hcfg, hfault]

/-- Settles O54: no case of `BlockStep` writes an id or the configuration. -/
theorem idsAndConfigurationAreFixedBetweenResets : Obligations.IdsAndConfigurationAreFixedBetweenResets := by
  intro s t hstep hr
  have hblock := blockStep_of_step hstep hr
  obtain ⟨hcfg, hfault⟩ := hblock.cfg_eq
  exact ⟨hblock.ids_eq, hcfg, hfault, congrArg Config.deviceSetup hcfg⟩

theorem BlockStep.sc_eq {s t : State} (h : BlockStep s t)
    (hno : ¬ ∃ bytes, s.WillComplete (.ok bytes) ∧ bytes.length = s.cfg.nb) : t.sc = s.sc := by
  cases h with
  | quiet _ block | setCell _ _ _ block | issue _ _ block =>
    obtain ⟨-, -, hsc, -⟩ := block
    simp [hsc]
  | finish completes length _ => exact absurd ⟨_, completes, length⟩ hno

theorem sc_of_willComplete {s t : State} {bytes : List Byte} (h : step s = .next t)
    (hc : s.WillComplete (.ok bytes)) (hlen : bytes.length = s.cfg.nb) : t.sc = s.sc + 1 := by
  rw [step_complete s _ hc, Host.Outcome.next.injEq] at h
  simp [← h, State.completeScan, hlen]

/-- Settles O56: the two clauses are the completion of a successful scan and everything else. -/
theorem theScanCounterCountsSuccessfulScans : Obligations.TheScanCounterCountsSuccessfulScans := by
  intro s t hstep hr
  by_cases h : ∃ bytes, s.WillComplete (.ok bytes) ∧ bytes.length = s.cfg.nb
  · obtain ⟨bytes, hc, hlen⟩ := h
    exact .inr ⟨sc_of_willComplete hstep hc hlen, bytes, hc, hlen⟩
  · exact .inl ⟨(blockStep_of_step hstep hr).sc_eq h, h⟩

/-! ### Reset -/

theorem State.construct_cell {c : Config} {p : Nat} (h : p < c.nCells) :
    (State.construct c).cells[p]? = some (Cell.initial p) := by
  simp [h]

/-- Settles O47: the fields of a constructed block, one by one. -/
theorem resetLeavesEveryPieceOfStateAtItsValue : Obligations.ResetLeavesEveryPieceOfStateAtItsValue := by
  intro c
  have hlen : (State.construct c).cells.length = c.nCells := by simp
  have htx : (State.construct c).tx.length = c.nb := by simp
  have hzero : ∀ b ∈ (State.construct c).tx, b = 0x00 := fun b hb => List.eq_of_mem_replicate hb
  exact ⟨rfl, hlen, fun p hp => State.construct_cell hp, rfl, htx, hzero, rfl, rfl⟩

theorem Config.periodLegal_eq_false_iff (p : Nat) : Config.periodLegal p = false ↔ p = 0 ∨ 4294967295 < p := by
  simp only [Config.periodLegal, Bool.and_eq_false_iff, decide_eq_false_iff_not]
  omega

/-- A configuration is malformed when one of the checks of R241 fails. -/
theorem Config.malformed_iff (c : Config) : c.malformed = true ↔
    c.spiModeLegal = false ∨ c.nCellsLegal = false ∨ Config.periodLegal c.flash1Period = false ∨
    Config.periodLegal c.flash2Period = false ∨ c.holdThresholdLegal = false ∨ c.wordSizeLegal = false := by
  simp only [Config.malformed, Bool.not_eq_true', Bool.and_eq_false_iff, or_assoc]

/-- Settles O48: each check of R241 fails exactly outside its range. -/
theorem cfgFaultIsSetExactlyByAMalformedConfiguration :
    Obligations.CfgFaultIsSetExactlyByAMalformedConfiguration := by
  intro c
  have hmode : c.spiModeLegal = false ↔ ¬ c.spiMode ≤ 3 := decide_eq_false_iff_not
  have hcells : c.nCellsLegal = false ↔ ¬ (1 ≤ c.nCells ∧ c.nCells ≤ 32767) := by
    rw [← Bool.not_eq_true]
    simp [Config.nCellsLegal]
  have hhold : c.holdThresholdLegal = false ↔ 65534 < c.holdThreshold := by simp [Config.holdThresholdLegal]
  have hword : c.wordSizeLegal = false ↔ c.wordSize ≠ 8 := beq_eq_false_iff_ne
  rw [State.construct_cfgFault, Config.malformed_iff, hmode, hcells, Config.periodLegal_eq_false_iff,
    Config.periodLegal_eq_false_iff, hhold, hword]
  simp only [or_assoc]

end Sys2Proof.Machine
end

section
/-! A ready block's commands, one after another: what SET_CELL wrote is what GET_CELL reads (20_memory.md R69, R70,
43_scan_controller.md R186, R188). -/

namespace Sys2Proof.Machine

/-- A ready block runs the command itself: no check in front of it stops it (R181). -/
theorem exec_of_ready (i : Instr) {s : State} (h : s.Ready) : exec i s = .next (commandEffect i s) := by
  rw [exec_eq, s.accept_ready _ h]

@[simp] theorem commandEffect_setCell (pos count : Half) (cb : CellByte) (s : State) :
    commandEffect (.setCell pos cb count) s = s.setCell pos cb count := rfl
@[simp] theorem commandEffect_getCell (pos : Half) (s : State) : commandEffect (.getCell pos) s = s.getCell pos := rfl
@[simp] theorem commandEffect_runScan (s : State) : commandEffect .runScan s = s.issueScan := rfl

theorem State.setCell_of_lt {s : State} {pos : Half} (h : pos.toNat < s.cfg.nCells) (cb : CellByte) (count : Half) :
    s.setCell pos cb count =
      { s with
        cells := s.cells.modify pos.toNat fun c => c.configure cb count
        responses := s.responses ++ [0] } := by
  obtain ⟨-, heq⟩ | ⟨hle, -⟩ := s.setCell_cases pos cb count
  · exact heq
  · exact absurd h hle.not_gt

theorem State.getCell_of_lt {s : State} {pos : Half} (h : pos.toNat < s.cfg.nCells) :
    s.getCell pos = s.emit [snapshotWord (s.cellRead pos.toNat)] := by
  obtain ⟨-, heq⟩ | ⟨hle, -⟩ := s.getCell_cases pos
  · exact heq
  · exact absurd h hle.not_gt

/-- Read after write (R70): SET_CELL leaves the record of the cell it names configured. -/
theorem State.cellRead_setCell {s : State} {pos : Half} {c : Cell} (h : pos.toNat < s.cfg.nCells)
    (hc : s.cells[pos.toNat]? = some c) (cb : CellByte) (count : Half) :
    (s.setCell pos cb count).cellRead pos.toNat = c.configure cb count := by
  rw [State.setCell_of_lt h]
  exact cellRead_of_getElem? _ _ _ (by simp [hc])

/-- Settles O15: SET_CELL leaves the block ready with the record configured, and GET_CELL appends its SNAPSHOT. -/
theorem getCellAfterSetCellReadsWhatWasWritten : Obligations.GetCellAfterSetCellReadsWhatWasWritten := by
  intro s t pos count cb c hready hpos hc hset
  obtain rfl : s.setCell pos cb count = t := by
    simpa [exec_of_ready _ hready] using hset
  have hready' : (s.setCell pos cb count).Ready := by rwa [State.setCell_of_lt hpos]
  have hpos' : pos.toNat < (s.setCell pos cb count).cfg.nCells := by rwa [State.setCell_of_lt hpos]
  have hresponses : (s.setCell pos cb count).responses = s.responses ++ [0] := by rw [State.setCell_of_lt hpos]
  refine ⟨_, exec_of_ready _ hready', ?_⟩
  rw [commandEffect_getCell, State.getCell_of_lt hpos', State.cellRead_setCell hpos hc]
  refine ⟨rfl, ?_⟩
  rw [State.emit_responses, hresponses, List.append_assoc]
  rfl

end Sys2Proof.Machine
end

section
/-! The link bytes of a scan: the transmit buffer reversed, NB bytes with a padding of 0 (20_memory.md R62, R64,
40_bit_order.md R122, R126). -/

namespace Sys2Proof.Machine

@[simp] theorem rev8_rev8 (b : Byte) : rev8 (rev8 b) = b := by
  refine byte_ext _ _ fun k hk => ?_
  rw [rev8_getLsbD _ _ hk, rev8_getLsbD _ _ (by omega), Nat.sub_sub_self (by omega)]

@[simp] theorem reverseBytes_reverseBytes (bs : List Byte) : reverseBytes (reverseBytes bs) = bs := by
  simp [reverseBytes, Function.comp_def]

@[simp] theorem reverseBytes_length (bs : List Byte) : (reverseBytes bs).length = bs.length := List.length_map ..

/-- Bit `p` of a buffer is sent as the link bit of position `p` (R126). -/
theorem linkBit_reverseBytes (bs : List Byte) (p : Nat) :
    ((reverseBytes bs).getD (p / 8) 0).getLsbD (7 - p % 8) = bufferBit bs p := by
  rw [← bufferBit_reverseBytes, reverseBytes_reverseBytes]

theorem bufferBit_of_le {buf : List Byte} {q : Nat} (h : 8 * buf.length ≤ q) : bufferBit buf q = false := by
  have hbyte : buf.length ≤ byteIndex q := by unfold byteIndex; omega
  simp [bufferBit, List.getD_eq_getElem?_getD, hbyte]

/-- PACK leaves the padding 0 (R62), and there is nothing past the buffer. -/
theorem bufferBit_packed_of_le {n q : Nat} (h : n ≤ q) (nb : Nat) (cells : List Cell) :
    bufferBit ((List.range nb).map (pack n cells)) q = false := by
  by_cases hq : q < 8 * nb
  · simp [bufferBit_packed n nb cells q hq, h.not_gt]
  · exact bufferBit_of_le (by simpa using hq)

theorem State.Inv.length_tx {s : State} (h : s.Inv) : s.tx.length = s.cfg.nb := by
  obtain ⟨-, htx, -⟩ := h
  simp [htx]

/-- The padding of a consistent block's transmit buffer is 0 (R43, R64). -/
theorem State.Inv.tx_padding {s : State} (h : s.Inv) {q : Nat} (hq : s.cfg.nCells ≤ q) :
    bufferBit s.tx q = false := by
  obtain ⟨-, htx, -⟩ := h
  rw [htx]
  exact bufferBit_packed_of_le hq ..

/-- The issue step makes one call, with the bytes of the transmit buffer it leaves (R183). -/
theorem State.issueScan_linkOut (s : State) :
    s.issueScan.linkOut = s.linkOut ++ [reverseBytes s.issueScan.tx] := by
  simp [State.issueScan_eq]

theorem State.Inv.length_issueScan_tx {s : State} (h : s.Inv) (hf : s.cfgFault = false) :
    s.issueScan.tx.length = s.cfg.nb := by
  rw [(h.issueScan hf).length_tx, State.issueScan_cfg]

/-- Settles O26: the issue step keeps the invariant, whose PACK has a padding of 0. -/
theorem paddingIsSentAsZero : Obligations.PaddingIsSentAsZero := by
  intro s t q hinv hready hexec hq
  obtain rfl : s.issueScan = t := by simpa [exec_of_ready _ hready] using hexec
  have hinv' : s.issueScan.Inv := hinv.issueScan hready.2
  refine ⟨reverseBytes s.issueScan.tx, s.issueScan_linkOut, ?_, ?_⟩
  · rw [reverseBytes_length, hinv.length_issueScan_tx hready.2]
  · rw [linkBit_reverseBytes]
    exact hinv'.tx_padding (by rwa [State.issueScan_cfg])

/-! ### The padding of an answer -/

/-- The decode pass reads the samples of the chain's cells and nothing else of the received bytes (R125, R163). -/
theorem decodePass_congr {rx ry : List Byte} (s : State)
    (h : ∀ p < s.cfg.nCells, pressed rx p = pressed ry p) : decodePass rx s = decodePass ry s := by
  refine List.foldl_ext _ _ _ fun r p hp => ?_
  rw [decodeCell, decodeCell, h p (List.mem_range.mp hp)]

/-- A sample is the link bit of its position, a 0 being a press (R125, R151). -/
theorem pressed_reverseBytes (bs : List Byte) (p : Nat) :
    pressed (reverseBytes bs) p = !(bs.getD (p / 8) 0).getLsbD (7 - p % 8) := by
  rw [pressed, bufferBit_reverseBytes, beq_false]

theorem State.completeScan_of_length {s : State} {bytes : List Byte} (h : bytes.length = s.cfg.nb) :
    s.completeScan (.ok bytes) = s.finishScan bytes := if_pos h

/-- Two answers of NB bytes with the same link bits for the chain complete a scan alike (R62). -/
theorem State.completeScan_congr {a b : List Byte} (s : State) (ha : a.length = s.cfg.nb) (hb : b.length = s.cfg.nb)
    (h : ∀ p < s.cfg.nCells, (a.getD (p / 8) 0).getLsbD (7 - p % 8) = (b.getD (p / 8) 0).getLsbD (7 - p % 8)) :
    s.completeScan (.ok a) = s.completeScan (.ok b) := by
  have hsamples : ∀ p < s.cfg.nCells, pressed (reverseBytes a) p = pressed (reverseBytes b) p := by
    intro p hp
    rw [pressed_reverseBytes, pressed_reverseBytes, h p hp]
  rw [State.completeScan_of_length ha, State.completeScan_of_length hb, State.finishScan, State.finishScan,
    decodePass_congr s hsamples]

/-- A waiting block completes its scan with the next answer, and the others stay. -/
theorem step_answered {s : State} (hr : s.NoReset) (hp : s.phase = .xferWait) (a : Answer) (rest : List Answer) :
    step { s with answers := a :: rest } =
      .next ({ s with answers := rest, resets := s.resets.tail }.completeScan a) :=
  step_complete _ a ⟨hr, hp, rfl⟩

/-- Settles O36: both answers complete the scan from the same state, with the same sample for every cell. -/
theorem receivedPaddingChangesNothing : Obligations.ReceivedPaddingChangesNothing := by
  intro s a b rest hr hp ha hb hbits
  rw [step_answered hr hp, step_answered hr hp]
  exact congrArg Host.Outcome.next (State.completeScan_congr _ ha hb hbits)

/-! ### The calls of one step -/

@[simp] theorem State.finishScan_linkOut (s : State) (bytes : List Byte) :
    (s.finishScan bytes).linkOut = s.linkOut := by
  rw [State.finishScan_eq]

@[simp] theorem State.completeScan_linkOut (s : State) (a : Answer) : (s.completeScan a).linkOut = s.linkOut := by
  obtain ⟨bytes, -, -, heq⟩ | ⟨reason, heq⟩ := s.completeScan_cases a <;> simp [heq]

/-- The checks in front of a command make no call. -/
theorem State.accept_linkOut (s : State) (run : State → State) :
    (s.accept run).linkOut = s.linkOut ∨ (s.Ready ∧ s.accept run = run s) := by
  obtain ⟨-, heq⟩ | ⟨-, -, heq⟩ | hrun := s.accept_cases run
  · exact .inl (by rw [heq])
  · exact .inl (by rw [heq, State.raise_linkOut])
  · exact .inr hrun

@[simp] theorem State.refuseIllegal_linkOut (s : State) : s.refuseIllegal.linkOut = s.linkOut := by
  obtain h | ⟨-, heq⟩ := s.accept_linkOut fun s => s.raise .illegalCommand
  · exact h
  · rw [State.refuseIllegal, heq, State.raise_linkOut]

/-- Of the three commands only RUN_SCAN calls the transport (R183, R193). -/
theorem commandEffect_linkOut (i : Instr) (s : State) : (commandEffect i s).linkOut = s.linkOut ∨ i = .runScan := by
  cases i with
  | setCell pos cb count =>
    obtain ⟨-, heq⟩ | ⟨-, heq⟩ := s.setCell_cases pos cb count <;> exact .inl (by simp [heq])
  | getCell pos =>
    obtain ⟨-, heq⟩ | ⟨-, heq⟩ := s.getCell_cases pos <;> exact .inl (by simp [heq])
  | runScan => exact .inr rfl

/-- A step makes no call, or is the issue step of a RUN_SCAN. -/
theorem linkOut_eq_or_issue_of_step {s t : State} (h : step s = .next t) :
    t.linkOut = s.linkOut ∨
    (s.Ready ∧ s.WillAccept 0x0000000000000003 ∧ t = s.takeCommand.issueScan) := by
  obtain ⟨c, -, rfl⟩ | ⟨a, -, rfl⟩ | ⟨-, -, -, rfl⟩ | ⟨w, i, hw, hd, rfl⟩ | ⟨w, r, -, -, rfl⟩ | ⟨-, -, -, rfl⟩ :=
    step_cases s t h
  case inr.inr.inr.inl =>
    obtain hnone | ⟨hready, heq⟩ := s.takeCommand.accept_linkOut (commandEffect i)
    · exact .inl hnone
    · rw [heq]
      obtain hnone | rfl := commandEffect_linkOut i s.takeCommand
      · exact .inl hnone
      · exact .inr ⟨hready, eq_of_decode_runScan hd ▸ hw, rfl⟩
  all_goals exact .inl (by simp)

/-- Settles O57: the one call of the issue step carries the transmit buffer, NB bytes long in a consistent block. -/
theorem oneTransportCallPerAcceptedScan : Obligations.OneTransportCallPerAcceptedScan := by
  intro s t hinv hstep
  refine (linkOut_eq_or_issue_of_step hstep).imp_right ?_
  rintro ⟨hready, ⟨-, -, hcommand⟩, rfl⟩
  have hinv' : s.takeCommand.Inv := .of_sameBlock s.sameBlock_takeCommand hinv
  refine ⟨hready, hcommand, State.issueScan_phase _, _, ?_, State.issueScan_linkOut _⟩
  rw [reverseBytes_length, hinv'.length_issueScan_tx hready.2, State.takeCommand_cfg]

end Sys2Proof.Machine
end

section
/-! The command words field by field (30_encoding.md R80, R82 to R86): a field as a number, the words that decode to a
command, which are exactly the commands' encodings, and the words that are Illegal. -/

namespace Sys2Proof

/-! ### The fields of a word as numbers (R82) -/

theorem opcField_toNat (w : Word) : (opcField w).toNat = w.toNat % 2 ^ 4 := by
  simp [opcField, BitVec.extractLsb'_toNat]

theorem rsv0Field_toNat (w : Word) : (rsv0Field w).toNat = w.toNat / 2 ^ 4 % 2 ^ 4 := by
  simp [rsv0Field, BitVec.extractLsb'_toNat, Nat.shiftRight_eq_div_pow]

theorem cbField_toNat (w : Word) : (cbField w).toNat = w.toNat / 2 ^ 8 % 2 ^ 8 := by
  simp [cbField, BitVec.extractLsb'_toNat, Nat.shiftRight_eq_div_pow]

theorem posField_toNat (w : Word) : (posField w).toNat = w.toNat / 2 ^ 16 % 2 ^ 16 := by
  simp [posField, BitVec.extractLsb'_toNat, Nat.shiftRight_eq_div_pow]

theorem countField_toNat (w : Word) : (countField w).toNat = w.toNat / 2 ^ 32 % 2 ^ 16 := by
  simp [countField, BitVec.extractLsb'_toNat, Nat.shiftRight_eq_div_pow]

theorem rsv1Field_toNat (w : Word) : (rsv1Field w).toNat = w.toNat / 2 ^ 48 := by
  have hlt : w.toNat < 2 ^ 64 := w.isLt
  have hhigh : w.toNat / 2 ^ 48 < 2 ^ 16 := by omega
  rw [rsv1Field, BitVec.extractLsb'_toNat, Nat.shiftRight_eq_div_pow, Nat.mod_eq_of_lt hhigh]

theorem cbField_getLsbD (w : Word) {k : Nat} (hk : k < 8) : (cbField w).getLsbD k = w.getLsbD (8 + k) := by
  simp [cbField, hk]

/-! ### The cell byte in a word (R80) -/

/-- The primary state's code is the low two bits of a cell byte. -/
theorem CellByte.code_toNat (b : CellByte) : b.primaryState.code.toNat = b.bits.toNat % 2 ^ 2 := by
  rw [CellByte.bits, BitVec.toNat_append, Nat.or_mod_two_pow, Nat.shiftLeft_eq, Nat.mul_mod_left, Nat.zero_or,
    Nat.mod_eq_of_lt b.primaryState.code.isLt]

/-- Where the fields of a cell byte stand in a word that carries it in bits 15:8. -/
theorem cellByte_fields_of_cbField {w : Word} {b : CellByte} (h : cbField w = b.bits) :
    w.toNat / 2 ^ 8 % 2 ^ 2 = b.primaryState.code.toNat ∧
    w.getLsbD 10 = b.lampOn ∧ w.getLsbD 11 = b.toggleMode ∧ w.getLsbD 12 = b.notifyOnChange ∧
    w.getLsbD 13 = b.notifyOnHold ∧ w.getLsbD 14 = b.holdEventPending ∧ w.getLsbD 15 = b.lastScanPressed := by
  have hcode : w.toNat / 2 ^ 8 % 2 ^ 2 = b.primaryState.code.toNat := by
    rw [b.code_toNat, ← h, cbField_toNat]
    omega
  have hbit : ∀ k < 8, w.getLsbD (8 + k) = b.bits.getLsbD k := fun k hk => by rw [← h, cbField_getLsbD w hk]
  have hread := b.ofBits_bits
  exact ⟨hcode,
    (hbit 2 (by omega)).trans (congrArg CellByte.lampOn hread),
    (hbit 3 (by omega)).trans (congrArg CellByte.toggleMode hread),
    (hbit 4 (by omega)).trans (congrArg CellByte.notifyOnChange hread),
    (hbit 5 (by omega)).trans (congrArg CellByte.notifyOnHold hread),
    (hbit 6 (by omega)).trans (congrArg CellByte.holdEventPending hread),
    (hbit 7 (by omega)).trans (congrArg CellByte.lastScanPressed hread)⟩

/-! ### The legal words are the encodings (R82 to R86) -/

/-- Decoding undoes encoding. -/
@[simp] theorem decode_encode (i : Instr) : decode (encode i) = .ok i := by
  cases i with
  | setCell pos cb count =>
    rw [encode, decode_commandWord, if_pos rfl, CellByte.ofBits_bits]
  | getCell pos =>
    rw [encode, decode_commandWord, if_neg (by decide), if_pos rfl, if_neg (by simp)]
  | runScan =>
    rw [encode, decode_commandWord, if_neg (by decide), if_neg (by decide), if_pos rfl, if_neg (by simp)]

/-- Settles O1. -/
theorem decodingAnEncodingGivesTheCommand : Obligations.DecodingAnEncodingGivesTheCommand := decode_encode

/-- A word with a reserved field set is Illegal, so a legal one is built from its other fields. -/
theorem commandWord_of_decode {w : Word} {i : Instr} (h : decode w = .ok i) :
    commandWord (countField w) (posField w) (cbField w) (opcField w) = w := by
  by_cases hrsv : rsv0Field w ≠ 0 ∨ rsv1Field w ≠ 0
  · rw [decode, if_pos hrsv] at h
    cases h
  · push Not at hrsv
    exact commandWord_of_fields w hrsv.1 hrsv.2

/-- Encoding undoes decoding. -/
theorem encode_of_decode {w : Word} {i : Instr} (h : decode w = .ok i) : encode i = w := by
  have hw := commandWord_of_decode h
  generalize countField w = count, posField w = pos, cbField w = cb, opcField w = opc at hw
  subst hw
  rw [decode_commandWord] at h
  split_ifs at h with hset hget hunused hrun hunused <;> cases h
  case pos => rw [encode, CellByte.bits_ofBits, hset]
  case neg =>
    push Not at hunused
    obtain ⟨hcb, hcount⟩ := hunused
    rw [encode, hget, hcb, hcount]
  case neg =>
    push Not at hunused
    obtain ⟨hcb, hpos, hcount⟩ := hunused
    rw [encode, hrun, hcb, hpos, hcount]

/-- Settles O2. -/
theorem aLegalWordIsItsCommandsEncoding : Obligations.ALegalWordIsItsCommandsEncoding :=
  fun _ _ => encode_of_decode

/-- Settles O4: a word that decodes to a SET_CELL is its encoding, in which every operand stands in its field. -/
theorem setCellOperandsAreTheWordsFields : Obligations.SetCellOperandsAreTheWordsFields := by
  intro w pos count cb h
  have hw : commandWord count pos cb.bits 1 = w := encode_of_decode h
  have hpos : posField w = pos := by rw [← hw, posField_commandWord]
  have hcount : countField w = count := by rw [← hw, countField_commandWord]
  have hcb : cbField w = cb.bits := by rw [← hw, cbField_commandWord]
  obtain ⟨hcode, hlamp, htoggle, hchange, hhold, hpending, hlast⟩ := cellByte_fields_of_cbField hcb
  exact ⟨by rw [← hpos, posField_toNat], by rw [← hcount, countField_toNat], hcode.symm, hlamp.symm, htoggle.symm,
    hchange.symm, hhold.symm, hpending.symm, hlast.symm⟩

/-! ### The Illegal words (R85, R86) -/

/-- The Illegal words by their fields: the negations of the decoder's tests for the three commands. -/
theorem decode_error_iff (w : Word) : (∃ r, decode w = .error r) ↔
    rsv0Field w ≠ 0 ∨ rsv1Field w ≠ 0 ∨ (opcField w ≠ 1 ∧ opcField w ≠ 2 ∧ opcField w ≠ 3) ∨
    (opcField w = 2 ∧ (cbField w ≠ 0 ∨ countField w ≠ 0)) ∨
    (opcField w = 3 ∧ (cbField w ≠ 0 ∨ posField w ≠ 0 ∨ countField w ≠ 0)) := by
  unfold decode
  split_ifs with hrsv hset hget hunused hrun hunused
  · exact iff_of_true ⟨_, rfl⟩ (or_assoc.mp (.inl hrsv))
  · simpa [hset] using hrsv
  · exact iff_of_true ⟨_, rfl⟩ (.inr (.inr (.inr (.inl ⟨hget, hunused⟩))))
  · simpa [hget, not_or, and_assoc] using And.intro hrsv hunused
  · exact iff_of_true ⟨_, rfl⟩ (.inr (.inr (.inr (.inr ⟨hrun, hunused⟩))))
  · simpa [hrun, not_or, and_assoc] using And.intro hrsv hunused
  · exact iff_of_true ⟨_, rfl⟩ (.inr (.inr (.inl ⟨hset, hget, hrun⟩)))

/-- Settles O3: each test on a field is a test on its number. -/
theorem illegalWordsAreExactlyTheReservedOnes : Obligations.IllegalWordsAreExactlyTheReservedOnes := by
  intro w
  rw [decode_error_iff]
  simp only [ne_eq, ← BitVec.toNat_inj, opcField_toNat, rsv0Field_toNat, rsv1Field_toNat, cbField_toNat,
    posField_toNat, countField_toNat, BitVec.ofNat_eq_ofNat, BitVec.toNat_ofNat]
  omega

/-! ### Words and codes written out -/

/-- Settles O5: the decoder evaluated on each word. -/
theorem specWordsDecodeAsWritten : Obligations.SpecWordsDecodeAsWritten := by
  unfold Obligations.SpecWordsDecodeAsWritten
  decide

@[simp] theorem PrimaryState.code_ofCode (k : BitVec 2) : (PrimaryState.ofCode k).code = k := by
  revert k; decide

@[simp] theorem PrimaryState.ofCode_code (s : PrimaryState) : PrimaryState.ofCode s.code = s := by
  cases s <;> rfl

/-- Settles O6. -/
theorem primaryStateCodes : Obligations.PrimaryStateCodes :=
  ⟨rfl, rfl, rfl, rfl, PrimaryState.code_ofCode, PrimaryState.ofCode_code⟩

end Sys2Proof
end

section
/-! The response words as numbers, a SNAPSHOT word as the SET_CELL that writes its record back, and the words the
host computes from it with masks (30_encoding.md R90 to R95, R97, R99). -/

namespace Sys2Proof

/-! ### Response words as numbers (R90, R93, R94) -/

/-- Appending shifts the upper part past the lower one. -/
theorem toNat_append_eq_add {m n : Nat} (x : BitVec m) (y : BitVec n) :
    (x ++ y).toNat = x.toNat * 2 ^ n + y.toNat := by
  rw [BitVec.toNat_append, ← Nat.shiftLeft_add_eq_or_of_lt y.isLt, Nat.shiftLeft_eq]

namespace Machine

/-- Settles O8: each word is an append of its fields. -/
theorem doneAndErrorWordsAsNumbers : Obligations.DoneAndErrorWordsAsNumbers := by
  refine ⟨fun k s => ?_, fun p => ?_, fun r => ?_, rfl, rfl⟩
  · simp only [doneWord, toNat_append_eq_add, BitVec.toNat_ofNat]
    omega
  · simp only [ErrorKind.word, toNat_append_eq_add, BitVec.toNat_ofNat]
    omega
  · simp only [ErrorKind.word, toNat_append_eq_add, BitVec.toNat_ofNat]
    omega

/-! ### The SNAPSHOT word (R92, R95) -/

/-- A SNAPSHOT word is the command word that writes the record back: KIND 1 is the opcode of SET_CELL. -/
theorem snapshotWord_eq_commandWord (c : Cell) :
    snapshotWord c = commandWord c.consecutivePressedScans c.id c.cellByte.bits 1 := by
  refine BitVec.eq_of_toNat_eq ?_
  simp only [snapshotWord, commandWord, toNat_append_eq_add, BitVec.ofNat_eq_ofNat, BitVec.toNat_ofNat]
  omega

theorem snapshotWord_eq_encode (c : Cell) :
    snapshotWord c = encode (.setCell c.id c.cellByte c.consecutivePressedScans) := snapshotWord_eq_commandWord c

/-- Settles O9. -/
theorem aSnapshotWordIsAWriteBackCommand : Obligations.ASnapshotWordIsAWriteBackCommand := by
  intro c
  rw [snapshotWord_eq_encode, decode_encode]

/-- Settles O7: the fields of the SNAPSHOT word as a command word, and those of its cell byte. -/
theorem snapshotWordCarriesTheRecord : Obligations.SnapshotWordCarriesTheRecord := by
  intro c
  rw [snapshotWord_eq_commandWord]
  obtain ⟨hcode, hlamp, htoggle, hchange, hhold, hpending, hlast⟩ := cellByte_fields_of_cbField
    (cbField_commandWord c.consecutivePressedScans c.id c.cellByte.bits 1)
  refine ⟨?_, ?_, hcode, hlamp, htoggle, hchange, hhold, hpending, hlast, ?_, ?_, ?_⟩
  · rw [← opcField_toNat, opcField_commandWord]; rfl
  · rw [← rsv0Field_toNat, rsv0Field_commandWord]; rfl
  · rw [← posField_toNat, posField_commandWord]
  · rw [← countField_toNat, countField_commandWord]
  · rw [← rsv1Field_toNat, rsv1Field_commandWord]; rfl

/-! ### The words computed with masks (R99) -/

theorem commandWord_and_commandWord (n m p q : Half) (a b : Byte) (i j : BitVec 4) :
    commandWord n p a i &&& commandWord m q b j = commandWord (n &&& m) (p &&& q) (a &&& b) (i &&& j) := by
  have h : (0#16 ++ n ++ p ++ a ++ 0#4 ++ i) &&& (0#16 ++ m ++ q ++ b ++ 0#4 ++ j) =
      0#16 ++ (n &&& m) ++ (p &&& q) ++ (a &&& b) ++ 0#4 ++ (i &&& j) := by
    simp only [BitVec.and_append, BitVec.and_self]
  exact h

theorem commandWord_or_commandWord (n m p q : Half) (a b : Byte) (i j : BitVec 4) :
    commandWord n p a i ||| commandWord m q b j = commandWord (n ||| m) (p ||| q) (a ||| b) (i ||| j) := by
  have h : (0#16 ++ n ++ p ++ a ++ 0#4 ++ i) ||| (0#16 ++ m ++ q ++ b ++ 0#4 ++ j) =
      0#16 ++ (n ||| m) ++ (p ||| q) ++ (a ||| b) ++ 0#4 ++ (i ||| j) := by
    simp only [BitVec.or_append, BitVec.or_self]
  exact h

/-- A byte moved to bits 15:8 is a command word with that CB and nothing else. -/
theorem zeroExtend_shiftLeft_eight (b : Byte) : b.zeroExtend 64 <<< 8 = commandWord 0 0 b 0 := by
  refine BitVec.eq_of_toNat_eq ?_
  have hb := b.isLt
  simp only [commandWord, toNat_append_eq_add, BitVec.toNat_shiftLeft, BitVec.toNat_setWidth, Nat.shiftLeft_eq,
    BitVec.ofNat_eq_ofNat, BitVec.toNat_ofNat]
  omega

theorem half_and_ones (x : Half) : x &&& 0xFFFF = x := BitVec.and_allOnes
theorem byte_and_ones (x : Byte) : x &&& 0xFF = x := BitVec.and_allOnes

/-- The words of R99: the mask keeps POS, part of COUNT and part of CB; CB is completed from a byte; the opcode
becomes that of SET_CELL. -/
theorem masked_snapshotWord (c : Cell) (mcount : Half) (mcb b : Byte) :
    snapshotWord c &&& commandWord mcount 0xFFFF mcb 0 ||| commandWord 0 0 b 0 ||| 1#64 =
      commandWord (c.consecutivePressedScans &&& mcount) c.id (c.cellByte.bits &&& mcb ||| b) 1 := by
  have hone : 1#64 = commandWord 0 0 0 1 := rfl
  rw [snapshotWord_eq_commandWord, hone, commandWord_and_commandWord, commandWord_or_commandWord,
    commandWord_or_commandWord, half_and_ones]
  simp

/-- A mask that keeps CB whole, with nothing to complete it from. -/
theorem masked_snapshotWord_keeping_cb (c : Cell) (mcount : Half) :
    snapshotWord c &&& commandWord mcount 0xFFFF 0xFF 0 ||| 1#64 =
      commandWord (c.consecutivePressedScans &&& mcount) c.id c.cellByte.bits 1 := by
  have h := masked_snapshotWord c mcount 0xFF 0#8
  have hzero : commandWord 0 0 0#8 0 = 0#64 := rfl
  rwa [byte_and_ones, hzero, BitVec.or_zero, BitVec.or_zero] at h

/-- Bits 1:0 of a cell byte, its primary state, replaced. -/
theorem bits_replace_primaryState (b : CellByte) (s : PrimaryState) :
    b.bits &&& 0xFC ||| s.code.zeroExtend 8 = { b with primaryState := s }.bits := by
  have hcode : s.code.zeroExtend 8 = 0#6 ++ s.code := by cases s <;> rfl
  have hmask : ∀ x : BitVec 6, x &&& 63#6 = x := fun x => BitVec.and_allOnes
  have hreplace : ∀ (x : BitVec 6) (k j : BitVec 2), (x ++ k) &&& (63#6 ++ 0#2) ||| (0#6 ++ j) = x ++ j := by
    intro x k j
    simp only [BitVec.and_append, BitVec.or_append, hmask, BitVec.and_zero, BitVec.or_zero, BitVec.zero_or]
  rw [hcode]
  exact hreplace _ _ _

/-- Bits 5:3 of a cell byte, its behaviour flags, replaced. -/
theorem bits_replace_behaviour (b : CellByte) (t n h : Bool) :
    b.bits &&& 0xC7 ||| behaviourBits t n h =
      { b with toggleMode := t, notifyOnChange := n, notifyOnHold := h }.bits := by
  have hmask1 : ∀ x : BitVec 1, x &&& 1#1 = x := fun x => BitVec.and_allOnes
  have hmask2 : ∀ x : BitVec 2, x &&& 3#2 = x := fun x => BitVec.and_allOnes
  have hreplace : ∀ (p q f g e l f' g' e' : BitVec 1) (k : BitVec 2),
      (p ++ q ++ f ++ g ++ e ++ l ++ k) &&& (1#1 ++ 1#1 ++ 0#1 ++ 0#1 ++ 0#1 ++ 1#1 ++ 3#2) |||
        (0#1 ++ 0#1 ++ f' ++ g' ++ e' ++ 0#1 ++ 0#2) = p ++ q ++ f' ++ g' ++ e' ++ l ++ k := by
    intros
    simp only [BitVec.and_append, BitVec.or_append, hmask1, hmask2, BitVec.and_zero, BitVec.or_zero, BitVec.zero_or]
  exact hreplace (.ofBool b.lastScanPressed) (.ofBool b.holdEventPending)
    (.ofBool b.notifyOnHold) (.ofBool b.notifyOnChange) (.ofBool b.toggleMode) (.ofBool b.lampOn) (.ofBool h)
    (.ofBool n) (.ofBool t) b.primaryState.code

theorem writeBackWord_snapshotWord (c : Cell) :
    writeBackWord (snapshotWord c) = encode (.setCell c.id c.cellByte c.consecutivePressedScans) := by
  have h := masked_snapshotWord_keeping_cb c 0xFFFF
  rwa [half_and_ones] at h

theorem setStateWord_snapshotWord (c : Cell) (s : PrimaryState) : setStateWord (snapshotWord c) s =
    encode (.setCell c.id { c.cellByte with primaryState := s } c.consecutivePressedScans) := by
  have h := masked_snapshotWord c 0xFFFF 0xFC (s.code.zeroExtend 8)
  have hcode : s.code.zeroExtend 64 <<< 8 = commandWord 0 0 (s.code.zeroExtend 8) 0 := by cases s <;> rfl
  rwa [bits_replace_primaryState, half_and_ones, ← hcode] at h

theorem setFlagsWord_snapshotWord (c : Cell) (t n h : Bool) : setFlagsWord (snapshotWord c) t n h =
    encode (.setCell c.id { c.cellByte with toggleMode := t, notifyOnChange := n, notifyOnHold := h }
      c.consecutivePressedScans) := by
  have hword := masked_snapshotWord c 0xFFFF 0xC7 (behaviourBits t n h)
  rwa [bits_replace_behaviour, half_and_ones, ← zeroExtend_shiftLeft_eight] at hword

theorem clearHoldWord_snapshotWord (c : Cell) :
    clearHoldWord (snapshotWord c) = encode (.setCell c.id c.cellByte 0) := by
  have h := masked_snapshotWord_keeping_cb c 0#16
  rwa [BitVec.and_zero] at h

/-- Settles O10: each word is the encoding of the SET_CELL it stands for. -/
theorem pseudoInstructionWordsReplaceOnlyTheirFields : Obligations.PseudoInstructionWordsReplaceOnlyTheirFields := by
  intro c
  refine ⟨?_, fun s => ?_, fun t n h => ?_, ?_⟩
  · rw [writeBackWord_snapshotWord, decode_encode]
  · rw [setStateWord_snapshotWord, decode_encode]
  · rw [setFlagsWord_snapshotWord, decode_encode]
  · rw [clearHoldWord_snapshotWord, decode_encode]

/-- Settles O11: the reader and the encoder evaluated on each line. -/
theorem assemblerLinesAssembleAsWritten : Obligations.AssemblerLinesAssembleAsWritten := by
  unfold Obligations.AssemblerLinesAssembleAsWritten
  decide

end Machine

end Sys2Proof
end

section
/-! Command words on the block: a ready block runs the command a word decodes to and refuses an Illegal word
(30_encoding.md R86, R99, 43_scan_controller.md R180, R181). -/

namespace Sys2Proof.Machine

theorem State.takeCommand_of_commands {s : State} {w : Word} {ws : List Word} (h : s.commands = w :: ws) :
    s.takeCommand = { s with commands := ws, resets := s.resets.tail } := by
  rw [State.takeCommand, h]
  rfl

theorem State.Ready.willAccept {s : State} {w : Word} {ws : List Word} (hready : s.Ready) (hreset : s.NoReset)
    (hw : s.commands = w :: ws) : s.WillAccept w := ⟨hreset, hready.1, by rw [hw]; rfl⟩

/-- A ready block runs the command that the offered word decodes to (R181). -/
theorem step_of_decode {s : State} {w : Word} {ws : List Word} {i : Instr} (hreset : s.NoReset) (hready : s.Ready)
    (hw : s.commands = w :: ws) (hd : decode w = .ok i) :
    step s = .next (commandEffect i s.takeCommand) := by
  have hready' : s.takeCommand.Ready := hready
  rw [step_accept s w (hready.willAccept hreset hw), hd]
  exact exec_of_ready i hready'

/-- A ready block refuses an Illegal word (R214). -/
theorem step_of_decode_error {s : State} {w : Word} {ws : List Word} {r : Illegal} (hreset : s.NoReset)
    (hready : s.Ready) (hw : s.commands = w :: ws) (hd : decode w = .error r) :
    step s = .next (s.takeCommand.raise .illegalCommand) := by
  have hready' : s.takeCommand.Ready := hready
  rw [step_accept s w (hready.willAccept hreset hw), hd]
  exact congrArg Host.Outcome.next (s.takeCommand.accept_ready _ hready')

/-- The step of a GET_CELL word (R188). -/
theorem step_getCell {s : State} {pos : Half} {c : Cell} {ws : List Word} (hreset : s.NoReset) (hready : s.Ready)
    (hpos : pos.toNat < s.cfg.nCells) (hc : s.cells[pos.toNat]? = some c)
    (hw : s.commands = encode (.getCell pos) :: ws) :
    step s = .next { s with
      commands := ws
      resets := s.resets.tail
      responses := s.responses ++ [snapshotWord c] } := by
  have hpos' : pos.toNat < s.takeCommand.cfg.nCells := hpos
  have hread : s.takeCommand.cellRead pos.toNat = c := cellRead_of_getElem? _ _ c hc
  rw [step_of_decode hreset hready hw (decode_encode _), commandEffect_getCell, State.getCell_of_lt hpos', hread,
    State.takeCommand_of_commands hw]
  rfl

/-- The step of a SET_CELL word (R186). -/
theorem step_setCell {s : State} {pos count : Half} {cb : CellByte} {ws : List Word} (hreset : s.NoReset)
    (hready : s.Ready) (hpos : pos.toNat < s.cfg.nCells)
    (hw : s.commands = encode (.setCell pos cb count) :: ws) :
    step s = .next { s with
      cells := s.cells.modify pos.toNat fun c => c.configure cb count
      commands := ws
      resets := s.resets.tail
      responses := s.responses ++ [0] } := by
  have hpos' : pos.toNat < s.takeCommand.cfg.nCells := hpos
  rw [step_of_decode hreset hready hw (decode_encode _), commandEffect_setCell, State.setCell_of_lt hpos',
    State.takeCommand_of_commands hw]

/-- An error word leaves an `IDLE` block as it is but for the word. -/
theorem State.raise_of_idle {s : State} (h : s.phase = .idle) (e : ErrorKind) : s.raise e = s.emit [e.word] := by
  rw [State.raise, ← h]
  rfl

/-- Settles O20: by O3 the word decodes to Illegal. -/
theorem anIllegalWordIsAnsweredErrIllegal : Obligations.AnIllegalWordIsAnsweredErrIllegal := by
  intro s w ws hreset hready hw hillegal
  obtain ⟨r, hr⟩ := (illegalWordsAreExactlyTheReservedOnes w).mpr hillegal
  have hidle : s.takeCommand.phase = .idle := hready.1
  rw [step_of_decode_error hreset hready hw hr, State.raise_of_idle hidle, State.takeCommand_of_commands hw]
  rfl

/-- Settles O59: CONFIGURE is the SET_CELL of a position of the chain. -/
theorem configureSetsTheBehaviourAndClearsTheEventMemory :
    Obligations.ConfigureSetsTheBehaviourAndClearsTheEventMemory :=
  fun _ _ _ _ _ _ _ hreset hready hpos hw => step_setCell hreset hready hpos hw

/-! ### SET_STATE as its two commands (R99) -/

/-- Two functions that agree on an entry modify it alike. -/
theorem modify_congr_at {α : Type} {l : List α} {p : Nat} {a : α} {f g : α → α} (ha : l[p]? = some a)
    (h : f a = g a) : l.modify p f = l.modify p g := by
  rw [List.modify_eq_set_getElem?, List.modify_eq_set_getElem?, ha]
  simp [h]

/-- Writing a record back with its primary state replaced is `setState` (R190). -/
theorem Cell.configure_eq_setState (c : Cell) (st : PrimaryState) :
    c.configure { c.cellByte with primaryState := st } c.consecutivePressedScans = c.setState st := rfl

theorem State.Inv.lt_nCells {s : State} (h : s.Inv) {p : Nat} {c : Cell} (hc : s.cells[p]? = some c) :
    p < s.cfg.nCells := by
  obtain ⟨hlt, -⟩ := List.getElem?_eq_some_iff.mp hc
  rwa [h.length_cells] at hlt

/-- A cell of a consistent block carries its position as its id (R32). -/
theorem State.Inv.id_eq {s : State} (h : s.Inv) {pos : Half} {c : Cell} (hc : s.cells[pos.toNat]? = some c) :
    c.id = pos := by
  have hid := h.cellRead_id (h.lt_nCells hc)
  rwa [cellRead_of_getElem? s _ c hc, BitVec.ofNat_toNat, BitVec.setWidth_eq] at hid

/-- Settles O18: GET_CELL delivers the snapshot; the second word is the SET_CELL of the same record with the primary
state replaced, at the position that the record's id names. -/
theorem theSetStateSequenceReplacesOnlyThePrimaryState :
    Obligations.TheSetStateSequenceReplacesOnlyThePrimaryState := by
  intro s pos c st ws hinv hready hresets hc hw
  have hpos : pos.toNat < s.cfg.nCells := hinv.lt_nCells hc
  have hreset : s.NoReset := by rw [State.NoReset, hresets]; rfl
  have hread := step_getCell hreset hready hpos hc hw
  have hword := setStateWord_snapshotWord c st
  rw [hinv.id_eq hc] at hword
  rw [hword, hresets] at hread
  have hwrite := step_setCell (s := { s with
    commands := encode (.setCell pos { c.cellByte with primaryState := st } c.consecutivePressedScans) :: ws
    resets := []
    responses := s.responses ++ [snapshotWord c] }) rfl hready hpos rfl
  refine (run_succ 1 _ _ hread).trans ((run_succ 0 _ _ hwrite).trans ?_)
  rw [run_zero, modify_congr_at (g := fun c => c.setState st) hc (c.configure_eq_setState st), List.append_assoc,
    hresets]
  rfl

end Sys2Proof.Machine
end

section
/-! The words a step delivers (30_encoding.md R91, 60_exceptions.md R210): the responses are only appended to, by at
least one word exactly when a command ends. -/

namespace Sys2Proof.Machine

/-- What the host has been given only grows, and by at least one word exactly if `P` holds. -/
def State.Delivers (s t : State) (P : Prop) : Prop := ∃ ws, t.responses = s.responses ++ ws ∧ (ws ≠ [] ↔ P)

theorem State.Delivers.of_eq {s t : State} {P : Prop} (h : t.responses = s.responses) (hP : ¬ P) : s.Delivers t P :=
  ⟨[], by rw [h, List.append_nil], by simpa using hP⟩

theorem State.Delivers.of_append {s t : State} {P : Prop} {ws : List Word} (h : t.responses = s.responses ++ ws)
    (hne : ws ≠ []) (hP : P) : s.Delivers t P := ⟨ws, h, iff_of_true hne hP⟩

theorem State.Delivers.congr {s t : State} {P Q : Prop} (h : s.Delivers t P) (hPQ : P ↔ Q) : s.Delivers t Q :=
  (propext hPQ) ▸ h

/-- Every completion of a scan ends in DONE or in an error word (R184, R185). -/
theorem State.completeScan_delivers (s : State) (a : Answer) : s.Delivers (s.completeScan a) True := by
  obtain ⟨bytes, -, -, heq⟩ | ⟨reason, heq⟩ := s.completeScan_cases a <;> rw [heq]
  · rw [State.finishScan_eq]
    exact .of_append rfl (by simp) trivial
  · exact .of_append (s.raise_responses _) (by simp) trivial

/-- Every command but RUN_SCAN, whose response comes with its completion, answers at once (R91). -/
theorem commandEffect_delivers (i : Instr) (s : State) : s.Delivers (commandEffect i s) (i ≠ .runScan) := by
  cases i with
  | setCell pos cb count =>
    obtain ⟨-, heq⟩ | ⟨-, heq⟩ := s.setCell_cases pos cb count <;> rw [commandEffect_setCell, heq]
    · exact .of_append rfl (by simp) (by simp)
    · exact .of_append (s.raise_responses _) (by simp) (by simp)
  | getCell pos =>
    obtain ⟨-, heq⟩ | ⟨-, heq⟩ := s.getCell_cases pos <;> rw [commandEffect_getCell, heq]
    · exact .of_append (s.emit_responses _) (by simp) (by simp)
    · exact .of_append (s.raise_responses _) (by simp) (by simp)
  | runScan =>
    rw [commandEffect_runScan, State.issueScan_eq]
    exact .of_eq rfl (by simp)

/-- An `IDLE` block answers what it accepts at once, unless its configuration is well formed and the command does not
(R181, R213). -/
theorem State.accept_delivers {s : State} {run : State → State} {P : Prop} (hidle : s.phase = .idle)
    (hrun : s.Delivers (run s) P) : s.Delivers (s.accept run) (s.cfgFault = true ∨ P) := by
  cases hf : s.cfgFault with
  | true =>
    rw [s.accept_fault run hidle hf]
    exact .of_append (s.raise_responses _) (by simp) (.inl rfl)
  | false =>
    rw [s.accept_ready run ⟨hidle, hf⟩]
    exact hrun.congr (by simp)

/-- RUN_SCAN is the one word that decodes to it. -/
theorem decode_eq_runScan_iff (w : Word) : decode w = .ok .runScan ↔ w = 0x0000000000000003 :=
  ⟨eq_of_decode_runScan, fun h => h ▸ decode_encode .runScan⟩

/-- The condition of O58: the step completes a scan, or accepts a word that is not a RUN_SCAN the block can run. -/
def State.EndsCommand (s : State) : Prop :=
  (∃ a, s.WillComplete a) ∨ ∃ w, s.WillAccept w ∧ ¬ (s.cfgFault = false ∧ w = 0x0000000000000003)

theorem State.WillAccept.idle {s : State} {w : Word} (hw : s.WillAccept w) : s.phase = .idle := hw.2.1

/-- For a step that accepts a word the condition is about that word. -/
theorem State.WillAccept.endsCommand_iff {s : State} {w : Word} (hw : s.WillAccept w) :
    s.EndsCommand ↔ s.cfgFault = true ∨ decode w ≠ .ok .runScan := by
  have ⟨_, hidle, hword⟩ := hw
  rw [ne_eq, decode_eq_runScan_iff, ← Bool.not_eq_false, ← not_and_or]
  constructor
  · rintro (⟨a, -, hwait, -⟩ | ⟨v, ⟨-, -, hv⟩, hends⟩)
    · cases hidle.symm.trans hwait
    · obtain rfl : v = w := Option.some.inj (hv.symm.trans hword)
      exact hends
  · exact fun hends => .inr ⟨w, hw, hends⟩

/-- A step that neither completes a scan nor accepts a word ends no command. -/
theorem State.not_endsCommand {s : State} (hcomplete : ∀ a, ¬ s.WillComplete a) (haccept : ∀ w, ¬ s.WillAccept w) :
    ¬ s.EndsCommand := by
  rintro (⟨a, ha⟩ | ⟨w, hw, -⟩)
  · exact hcomplete a ha
  · exact haccept w hw

/-- Settles O58: by the cases of a step. -/
theorem responsesAreOnlyAppended : Obligations.ResponsesAreOnlyAppended := by
  intro s t hstep
  change s.Delivers t s.EndsCommand
  obtain ⟨c, hc, rfl⟩ | ⟨a, ha, rfl⟩ | ⟨-, hp, hnone, rfl⟩ | ⟨w, i, hw, hd, rfl⟩ | ⟨w, r, hw, hd, rfl⟩ |
    ⟨-, hp, hnone, rfl⟩ := step_cases s t hstep
  · have hreset : ¬ s.NoReset := fun h => s.noReset_iff.mp h c hc
    exact .of_eq rfl (State.not_endsCommand (fun _ h => hreset h.1) fun _ h => hreset h.1)
  · have hends : s.EndsCommand := .inl ⟨a, ha⟩
    exact (s.takeAnswer.completeScan_delivers a).congr (iff_of_true trivial hends)
  · refine .of_eq rfl (State.not_endsCommand ?_ ?_)
    · simp [hnone]
    · simp [hp]
  · have hidle : s.takeCommand.phase = .idle := hw.idle
    have hdelivers := State.accept_delivers hidle (commandEffect_delivers i s.takeCommand)
    exact hdelivers.congr (by simp [hw.endsCommand_iff, hd])
  · have hidle : s.takeCommand.phase = .idle := hw.idle
    have hdelivers : s.takeCommand.Delivers s.takeCommand.refuseIllegal _ :=
      State.accept_delivers hidle (.of_append (State.raise_responses _ _) (by simp) trivial)
    exact hdelivers.congr (by simp [hw.endsCommand_iff, hd])
  · refine .of_eq rfl (State.not_endsCommand ?_ ?_)
    · simp [hp]
    · simp [hnone]

end Sys2Proof.Machine
end

section
/-! The data path between the cells and the link (40_bit_order.md R120 to R127): REV8, a lamp bit in its buffer and on
the link, the issue step field by field, and the scan whose transport echoes. -/

namespace Sys2Proof.Machine

/-! ### REV8 (R120, R121) -/

/-- Settles O44. -/
theorem rev8ReversesTheBits : Obligations.Rev8ReversesTheBits := rev8_getLsbD

/-- Settles O45. -/
theorem rev8IsAnInvolution : Obligations.Rev8IsAnInvolution := rev8_rev8

/-! ### A lamp bit in its buffer (R124, R126) -/

theorem lampBit_of_getElem? {cells : List Cell} {i : Nat} {c : Cell} (hc : cells[i]? = some c) :
    lampBit cells i = c.lampOn := by
  simp [lampBit, hc]

/-- PACK puts the lamp bit of cell `i` at byte `i div 8`, bit `i mod 8` (R124). -/
theorem pack_getLsbD_of_getElem? {n i : Nat} {cells : List Cell} {c : Cell} (hi : i < n)
    (hc : cells[i]? = some c) : (pack n cells (i / 8)).getLsbD (i % 8) = c.lampOn := by
  rw [pack_getLsbD _ _ _ _ (Nat.mod_lt i (by decide)), Nat.div_add_mod, lampBit_of_getElem? hc]
  simp [hi]

/-- Settles O46: on the link REV8 moves bit `i mod 8` to `7 − i mod 8`. -/
theorem aPackedLampBitReadsBack : Obligations.APackedLampBitReadsBack := by
  intro n i cells c hi hc
  have hpacked := pack_getLsbD_of_getElem? hi hc
  have hbit : i % 8 ≤ 7 := Nat.le_of_lt_succ (Nat.mod_lt i (by decide))
  refine ⟨hpacked, ?_⟩
  rw [rev8_getLsbD _ _ (by omega), Nat.sub_sub_self hbit, hpacked]

/-- The transmit buffer of a consistent block holds each cell's lamp bit at the cell's position (R43, R126). -/
theorem State.Inv.bufferBit_tx {s : State} (h : s.Inv) {p : Nat} {c : Cell} (hc : s.cells[p]? = some c) :
    bufferBit s.tx p = c.lampOn := by
  have hp : p < s.cfg.nCells := h.lt_nCells hc
  have hnb : s.cfg.nCells ≤ 8 * s.cfg.nb := by unfold Config.nb; omega
  obtain ⟨-, htx, -⟩ := h
  rw [htx, bufferBit_packed _ _ _ _ (by omega), lampBit_of_getElem? hc]
  simp [hp]

/-! ### The issue step (R183) -/

@[simp] theorem State.issueScan_commands (s : State) : s.issueScan.commands = s.commands := by
  rw [State.issueScan_eq]
@[simp] theorem State.issueScan_answers (s : State) : s.issueScan.answers = s.answers := by
  rw [State.issueScan_eq]
@[simp] theorem State.issueScan_resets (s : State) : s.issueScan.resets = s.resets := by rw [State.issueScan_eq]
@[simp] theorem State.issueScan_responses (s : State) : s.issueScan.responses = s.responses := by
  rw [State.issueScan_eq]

/-- Settles O24: the encode pass in closed form, and a transmit buffer that the issue step leaves PACKed. -/
theorem runScanEncodesAndHandsTheBytesToTheTransport :
    Obligations.RunScanEncodesAndHandsTheBytesToTheTransport := by
  intro s hinv hready
  have hcells : s.issueScan.cells = s.cells.map fun c => { c with lampOn := lampFor s.cfg s.sc c } := by
    rw [State.issueScan_cells, encodePass_cells s hinv.length_cells]
  obtain ⟨-, htx, -⟩ := hinv.issueScan hready.2
  rw [State.TxIsPacked, State.issueScan_cfg] at htx
  exact ⟨s.issueScan, exec_of_ready .runScan hready, hcells, htx, s.issueScan_linkOut, s.issueScan_phase,
    s.issueScan_cfg, s.issueScan_sc, s.issueScan_cfgFault, s.issueScan_commands, s.issueScan_answers,
    s.issueScan_resets, s.issueScan_responses⟩

/-! ### The edge memory after a scan (R162), and a transport that echoes (R127) -/

@[simp] theorem Cell.scan_lastScanPressed (threshold : Nat) (p : Bool) (c : Cell) :
    (c.scan threshold p).1.lastScanPressed = p := by
  rw [Cell.scan_eq]

/-- A successful scan leaves each cell's sample in its edge memory. -/
theorem State.Inv.finishScan_lastScanPressed {s : State} (h : s.Inv) (bytes : List Byte) :
    (s.finishScan bytes).cells.map Cell.lastScanPressed =
      s.cells.mapIdx fun p _ => pressed (reverseBytes bytes) p := by
  rw [State.finishScan_cells, decodePass_cells _ s h.length_cells]
  exact List.ext_getElem (by simp) fun p _ _ => by simp

/-- The bytes sent, received back, are samples of opposite polarity to the lamps (R127). -/
theorem State.Inv.pressed_echo {s : State} (h : s.Inv) {p : Nat} {c : Cell} (hc : s.cells[p]? = some c) :
    pressed (reverseBytes (reverseBytes s.tx)) p = !c.lampOn := by
  rw [reverseBytes_reverseBytes, pressed, h.bufferBit_tx hc, beq_false]

/-- Settles O35: the echo has NB bytes, so the scan succeeds, and every sample is the negated lamp bit. -/
theorem anEchoingTransportPressesTheDarkCells : Obligations.AnEchoingTransportPressesTheDarkCells := by
  rintro s _ - hinv hwait hreset - rfl hanswer
  change s.answers.head? = some (.ok (reverseBytes s.tx)) at hanswer
  have hinv' : s.takeAnswer.Inv := .of_sameBlock s.sameBlock_takeAnswer hinv
  have hlength : (reverseBytes s.tx).length = s.takeAnswer.cfg.nb := by
    rw [reverseBytes_length, hinv.length_tx, State.takeAnswer_cfg]
  refine ⟨_, step_complete s _ ⟨hreset, hwait, hanswer⟩, ?_⟩
  rw [State.completeScan_of_length hlength, hinv'.finishScan_lastScanPressed, State.takeAnswer_cells]
  refine List.ext_getElem (by simp) fun p hp _ => ?_
  rw [List.length_mapIdx] at hp
  rw [List.getElem_mapIdx, List.getElem_map, hinv.pressed_echo (List.getElem?_eq_getElem hp)]

end Sys2Proof.Machine
end

section
/-! The lamp animation encoder (41_output_encoder.md R130 to R140): the lamp bit by primary state, ENCODE_CELL on one
record, once, twice with one scan value, and over successive scan values, and the scan that is retried after a failed
exchange. -/

namespace Sys2Proof.Machine

/-! ### The lamp bit, by primary state (R131 to R134) -/

theorem lampFor_of_off (cfg : Config) (S : ScanCount) {c : Cell} (h : c.primaryState = .off) :
    lampFor cfg S c = false := by
  simp only [lampFor, h]

theorem lampFor_of_on (cfg : Config) (S : ScanCount) {c : Cell} (h : c.primaryState = .on) :
    lampFor cfg S c = true := by
  simp only [lampFor, h]

theorem lampFor_of_flash1 (cfg : Config) (S : ScanCount) {c : Cell} (h : c.primaryState = .flash1) :
    lampFor cfg S c = if S.toNat % cfg.flash1Period = 0 then !c.lampOn else c.lampOn := by
  simp only [lampFor, h, flashDue, beq_iff_eq]

theorem lampFor_of_flash2 (cfg : Config) (S : ScanCount) {c : Cell} (h : c.primaryState = .flash2) :
    lampFor cfg S c = if S.toNat % cfg.flash2Period = 0 then !c.lampOn else c.lampOn := by
  simp only [lampFor, h, flashDue, beq_iff_eq]

/-! ### ENCODE_CELL on one record (R130) -/

/-- The record the encode pass with scan value `S` leaves. -/
def Cell.encode (cfg : Config) (S : ScanCount) (c : Cell) : Cell := { c with lampOn := lampFor cfg S c }

@[simp] theorem Cell.encode_primaryState (cfg : Config) (S : ScanCount) (c : Cell) :
    (c.encode cfg S).primaryState = c.primaryState := rfl
@[simp] theorem Cell.encode_lampOn (cfg : Config) (S : ScanCount) (c : Cell) :
    (c.encode cfg S).lampOn = lampFor cfg S c := rfl

/-- The issue step encodes every record. -/
theorem State.issueScan_cells_of_length {s : State} (h : s.cells.length = s.cfg.nCells) :
    s.issueScan.cells = s.cells.map (Cell.encode s.cfg s.sc) := by
  rw [State.issueScan_cells, encodePass_cells s h]
  rfl

/-- Settles O25: the issue step encodes the record at the cell's position. -/
theorem runScanLampFollowsThePrimaryState : Obligations.RunScanLampFollowsThePrimaryState := by
  intro s t p c hinv hready hc hexec
  obtain rfl : s.issueScan = t := by simpa [exec_of_ready _ hready] using hexec
  refine ⟨c.encode s.cfg s.sc, ?_, lampFor_of_off _ _, lampFor_of_on _ _, lampFor_of_flash1 _ _,
    lampFor_of_flash2 _ _⟩
  rw [State.issueScan_cells_of_length hinv.length_cells, List.getElem?_map, hc]
  rfl

/-! ### Successive scan values (R137) -/

/-- The cell is in a Flash state and `period` is its own (R133, R134). -/
def Cell.FlashesEvery (cfg : Config) (period : Nat) (c : Cell) : Prop :=
  (c.primaryState = .flash1 ∧ period = cfg.flash1Period) ∨ (c.primaryState = .flash2 ∧ period = cfg.flash2Period)

theorem lampFor_of_flashesEvery {cfg : Config} {period : Nat} {c : Cell} (h : c.FlashesEvery cfg period)
    (S : ScanCount) : lampFor cfg S c = if S.toNat % period = 0 then !c.lampOn else c.lampOn := by
  obtain ⟨hstate, rfl⟩ | ⟨hstate, rfl⟩ := h
  · exact lampFor_of_flash1 cfg S hstate
  · exact lampFor_of_flash2 cfg S hstate

/-- The record after `n` encode passes with the scan values from `start` on. -/
def Cell.encodeScans (cfg : Config) (start n : Nat) (c : Cell) : Cell :=
  (List.range n).foldl (fun d i => d.encode cfg (BitVec.ofNat 32 (start + i))) c

theorem Cell.encodeScans_succ (cfg : Config) (start n : Nat) (c : Cell) :
    c.encodeScans cfg start (n + 1) = (c.encodeScans cfg start n).encode cfg (BitVec.ofNat 32 (start + n)) := by
  simp [Cell.encodeScans, List.range_succ]

@[simp] theorem Cell.encodeScans_primaryState (cfg : Config) (start n : Nat) (c : Cell) :
    (c.encodeScans cfg start n).primaryState = c.primaryState := by
  induction n with
  | zero => rfl
  | succ n ih => rw [Cell.encodeScans_succ, Cell.encode_primaryState, ih]

theorem Cell.FlashesEvery.encodeScans {cfg : Config} {period : Nat} {c : Cell} (h : c.FlashesEvery cfg period)
    (start n : Nat) : (c.encodeScans cfg start n).FlashesEvery cfg period := by
  rwa [Cell.FlashesEvery, Cell.encodeScans_primaryState]

/-- Before any wrap the lamp of a Flash cell holds the parity of the multiples of its period so far. -/
theorem Cell.FlashesEvery.encodeScans_lampOn {cfg : Config} {period : Nat} {c : Cell}
    (h : c.FlashesEvery cfg period) (hdark : c.lampOn = false) (start n : Nat) (hwrap : start + n ≤ 2 ^ 32) :
    (c.encodeScans cfg start n).lampOn =
      decide ((List.range n).countP (fun i => (start + i) % period == 0) % 2 = 1) := by
  induction n with
  | zero => exact hdark
  | succ n ih =>
    have hvalue : (BitVec.ofNat 32 (start + n)).toNat = start + n := Nat.mod_eq_of_lt (by omega)
    rw [Cell.encodeScans_succ, Cell.encode_lampOn, lampFor_of_flashesEvery (h.encodeScans start n), hvalue,
      ih (by omega), List.range_succ, List.countP_append, List.countP_singleton]
    by_cases hdue : (start + n) % period = 0
    · simp [hdue, Nat.succ_mod_two_eq_one_iff, ← decide_not]
    · simp [hdue]

/-- Settles O43: the statement's fold is `k + 1` encode passes from `start` on. -/
theorem aFlashLampCountsThePeriodsMultiples : Obligations.AFlashLampCountsThePeriodsMultiples := by
  intro cfg c period start k hflash hdark hwrap
  have hflash : c.FlashesEvery cfg period := hflash
  exact hflash.encodeScans_lampOn hdark start (k + 1) hwrap

/-! ### One scan value twice: a scan retried after a failed exchange (R140, R248) -/

/-- The cell is in a Flash state whose period divides the scan value, so ENCODE_CELL toggles its lamp. -/
abbrev Cell.Toggles (cfg : Config) (S : ScanCount) (c : Cell) : Prop :=
  (c.primaryState = .flash1 ∧ S.toNat % cfg.flash1Period = 0) ∨
  (c.primaryState = .flash2 ∧ S.toNat % cfg.flash2Period = 0)

theorem Cell.lampFor_encode (cfg : Config) (S : ScanCount) (c : Cell) :
    lampFor cfg S (c.encode cfg S) = if c.Toggles cfg S then c.lampOn else lampFor cfg S c := by
  unfold Cell.Toggles
  cases hstate : c.primaryState with
  | off => simp [lampFor_of_off, hstate]
  | on => simp [lampFor_of_on, hstate]
  | flash1 => by_cases hdue : S.toNat % cfg.flash1Period = 0 <;> simp [lampFor_of_flash1, hstate, hdue]
  | flash2 => by_cases hdue : S.toNat % cfg.flash2Period = 0 <;> simp [lampFor_of_flash2, hstate, hdue]

/-- A second ENCODE_CELL with the same scan value undoes the toggle of the first and repeats any other lamp bit. -/
theorem Cell.encode_encode (cfg : Config) (S : ScanCount) (c : Cell) :
    (c.encode cfg S).encode cfg S = if c.Toggles cfg S then c else c.encode cfg S := by
  rw [Cell.encode, c.lampFor_encode cfg S]
  split <;> rfl

/-- A ready block that is offered RUN_SCAN takes the issue step (R182). -/
theorem step_runScan {s : State} {ws : List Word} (hreset : s.NoReset) (hready : s.Ready)
    (hw : s.commands = 0x0000000000000003 :: ws) : step s = .next s.takeCommand.issueScan :=
  step_of_decode hreset hready hw (decode_encode .runScan)

theorem State.takeCommand_issueScan_cells {s : State} (h : s.cells.length = s.cfg.nCells) :
    s.takeCommand.issueScan.cells = s.cells.map (Cell.encode s.cfg s.sc) :=
  State.issueScan_cells_of_length (s := s.takeCommand) h

/-- What a RUN_SCAN with a failed exchange leaves: the issue step, then the error word (R185). -/
def State.failScan (s : State) (reason : Byte) : State :=
  s.takeCommand.issueScan.takeAnswer.raise (.transportError reason)

@[simp] theorem State.failScan_cfg (s : State) (reason : Byte) : (s.failScan reason).cfg = s.cfg := by
  simp [State.failScan]
@[simp] theorem State.failScan_sc (s : State) (reason : Byte) : (s.failScan reason).sc = s.sc := by
  simp [State.failScan]
@[simp] theorem State.failScan_phase (s : State) (reason : Byte) : (s.failScan reason).phase = .idle := rfl
@[simp] theorem State.failScan_cfgFault (s : State) (reason : Byte) :
    (s.failScan reason).cfgFault = s.cfgFault := by
  simp [State.failScan]
@[simp] theorem State.failScan_commands (s : State) (reason : Byte) :
    (s.failScan reason).commands = s.commands.tail := by
  simp [State.failScan]
@[simp] theorem State.failScan_resets (s : State) (reason : Byte) :
    (s.failScan reason).resets = s.resets.tail.tail := by
  simp [State.failScan]

/-- A failed scan encodes every record and does nothing else to it (R185). -/
theorem State.failScan_cells {s : State} (h : s.cells.length = s.cfg.nCells) (reason : Byte) :
    (s.failScan reason).cells = s.cells.map (Cell.encode s.cfg s.sc) :=
  State.takeCommand_issueScan_cells h

/-- A RUN_SCAN whose exchange fails takes two steps (R182, R185). -/
theorem run_failScan {s : State} {reason : Byte} {ws : List Word} {rest : List Answer} (hready : s.Ready)
    (hresets : s.resets = []) (hw : s.commands = 0x0000000000000003 :: ws) (ha : s.answers = .fail reason :: rest)
    (k : Nat) : core.run (k + 2) s = core.run k (s.failScan reason) := by
  have hissue := step_runScan (by simp [State.NoReset, hresets]) hready hw
  have hfail : s.takeCommand.issueScan.WillComplete (.fail reason) :=
    ⟨by simp [State.NoReset, hresets], State.issueScan_phase _, by simp [ha]⟩
  exact (run_succ (k + 1) _ _ hissue).trans (run_succ k _ _ (step_complete _ _ hfail))

/-- Settles O34: the failed scan leaves the block ready with the same scan value, so the retry encodes every record a
second time. -/
theorem aRetriedScanUndoesTheFlashToggle : Obligations.ARetriedScanUndoesTheFlashToggle := by
  intro s reason ws rest hinv hready hresets hw ha
  have hfailed := State.failScan_cells hinv.length_cells reason
  have hlength : (s.failScan reason).cells.length = (s.failScan reason).cfg.nCells := by
    rw [hfailed, List.length_map, State.failScan_cfg, hinv.length_cells]
  have hretry := step_runScan (s := s.failScan reason) (ws := ws) (by simp [State.NoReset, hresets])
    ⟨s.failScan_phase reason, by rw [State.failScan_cfgFault, hready.2]⟩ (by rw [State.failScan_commands, hw]; rfl)
  refine ⟨_, (run_failScan hready hresets hw ha 1).trans (run_succ 0 _ _ hretry), State.issueScan_phase _, ?_⟩
  calc (s.failScan reason).takeCommand.issueScan.cells
      = (s.failScan reason).cells.map (Cell.encode s.cfg s.sc) := by
        rw [State.takeCommand_issueScan_cells hlength, State.failScan_cfg, State.failScan_sc]
    _ = s.cells.map fun c => (c.encode s.cfg s.sc).encode s.cfg s.sc := by rw [hfailed, List.map_map]; rfl
    _ = s.cells.map fun c => if c.Toggles s.cfg s.sc then c else c.encode s.cfg s.sc := by
        simp only [Cell.encode_encode]

end Sys2Proof.Machine
end

section
/-! The edge detector, hold detector and event generator (42_input_decoder.md R150 to R163): the conditions computed
from a sample, DECODE_CELL on one record and over several scans, the decode pass as DECODE_CELL on every record with
the events in their order, and the scans that end with it. -/

namespace Sys2Proof.Machine

/-! ### The conditions computed from a sample (R152, R155, R160) -/

/-- Settles O39. -/
theorem edgeDetectorTruthTable : Obligations.EdgeDetectorTruthTable :=
  ⟨⟨rfl, rfl⟩, ⟨rfl, rfl⟩, ⟨rfl, rfl⟩, rfl, rfl⟩

/-- Settles O40. -/
theorem toggleSwitchesOffEverythingButOff : Obligations.ToggleSwitchesOffEverythingButOff :=
  ⟨rfl, rfl, rfl, rfl⟩

/-- `is_hold` on the updated press counter, as numbers (R154, R155). -/
theorem isHold_pressCount (threshold : Nat) (press : Bool) (n : Half) :
    isHold threshold (pressCount press n) =
      decide (threshold < if press then min (n.toNat + 1) 0xFFFF else 0) := by
  rw [isHold, pressCount_toNat]

/-! ### DECODE_CELL on one record -/

/-- Step 5's event comes before step 6's, and their `hold_event_pending` tells them apart (R158, R159). -/
theorem Cell.scan_events_pairwise (threshold : Nat) (press : Bool) (c : Cell) :
    (c.scan threshold press).2.Pairwise fun a b => a.holdEventPending = false ∧ b.holdEventPending = true := by
  rw [Cell.scan_eq]
  dsimp only
  split
  case isTrue =>
    rw [List.singleton_append, List.pairwise_cons]
    split <;> simp
  case isFalse =>
    rw [List.nil_append]
    split <;> simp

/-- A hold event, told by its `hold_event_pending`, is appended exactly while the cell is held and notifies holds
(R159). -/
theorem Cell.exists_holdEvent_iff (threshold : Nat) (press : Bool) (c : Cell) :
    (∃ e ∈ (c.scan threshold press).2, e.holdEventPending = true) ↔
      c.notifyOnHold = true ∧ isHold threshold (pressCount press c.consecutivePressedScans) = true := by
  simp [Cell.scan_eq, or_and_right, exists_or]

@[simp] theorem Cell.scan_notifyOnChange (threshold : Nat) (press : Bool) (c : Cell) :
    (c.scan threshold press).1.notifyOnChange = c.notifyOnChange := by
  rw [Cell.scan_eq]
@[simp] theorem Cell.scan_notifyOnHold (threshold : Nat) (press : Bool) (c : Cell) :
    (c.scan threshold press).1.notifyOnHold = c.notifyOnHold := by
  rw [Cell.scan_eq]
@[simp] theorem Cell.scan_consecutivePressedScans (threshold : Nat) (press : Bool) (c : Cell) :
    (c.scan threshold press).1.consecutivePressedScans = pressCount press c.consecutivePressedScans := by
  rw [Cell.scan_eq]

/-! ### Several scans of one cell -/

/-- The record after `n` pressed scans. -/
def Cell.pressedScans (threshold n : Nat) (c : Cell) : Cell := (fun d => (Cell.scan threshold true d).1)^[n] c

theorem Cell.pressedScans_succ (threshold n : Nat) (c : Cell) :
    c.pressedScans threshold (n + 1) = ((c.pressedScans threshold n).scan threshold true).1 :=
  Function.iterate_succ_apply' _ n c

@[simp] theorem Cell.pressedScans_notifyOnHold (threshold n : Nat) (c : Cell) :
    (c.pressedScans threshold n).notifyOnHold = c.notifyOnHold := by
  induction n with
  | zero => rfl
  | succ n ih => rw [Cell.pressedScans_succ, Cell.scan_notifyOnHold, ih]

/-- The press counter counts pressed scans up to 0xFFFF (R154). -/
theorem Cell.pressedScans_count (threshold n : Nat) (c : Cell) :
    (c.pressedScans threshold n).consecutivePressedScans.toNat =
      min (c.consecutivePressedScans.toNat + n) 0xFFFF := by
  induction n with
  | zero =>
    have hlt := c.consecutivePressedScans.isLt
    change c.consecutivePressedScans.toNat = _
    omega
  | succ n ih =>
    rw [Cell.pressedScans_succ, Cell.scan_consecutivePressedScans, pressCount_toNat, ih, if_pos rfl]
    omega

/-- Settles O41: with `n` pressed scans counted, the next one brings the counter to `n + 1`, or to 0xFFFF, which is
above every legal threshold. -/
theorem holdEventsStartAfterTheThresholdAndRepeat : Obligations.HoldEventsStartAfterTheThresholdAndRepeat := by
  intro threshold n c hlegal hcount hnotify
  change (∃ e ∈ ((c.pressedScans threshold n).scan threshold true).2, e.holdEventPending = true) ↔ _
  have hzero : c.consecutivePressedScans.toNat = 0 := by rw [hcount]; rfl
  rw [Cell.exists_holdEvent_iff, Cell.pressedScans_notifyOnHold, isHold_pressCount, Cell.pressedScans_count, hzero]
  simp only [hnotify, true_and, if_true, decide_eq_true_eq]
  omega

/-- A cell that notifies only changes appends one event on an edge, with the old edge memory and the new press count
(R157, R158). -/
theorem Cell.scan_events_of_edge {threshold : Nat} {press : Bool} {c : Cell} (hchange : c.notifyOnChange = true)
    (hhold : c.notifyOnHold = false) (hedge : c.lastScanPressed = !press) :
    (c.scan threshold press).2 =
      [{ c with
        holdEventPending := false
        consecutivePressedScans := pressCount press c.consecutivePressedScans }] := by
  simp [Cell.scan_eq, hchange, hhold, hedge]

/-- Settles O42: the press is an edge of the released cell, and the release one of the cell the press left. -/
theorem aOneScanBlipGivesTwoEvents : Obligations.AOneScanBlipGivesTwoEvents := by
  intro threshold c hchange hhold hreleased
  have hdown := Cell.scan_events_of_edge (threshold := threshold) (press := true) hchange hhold hreleased
  have hup := Cell.scan_events_of_edge (threshold := threshold) (press := false) (c := (c.scan threshold true).1)
    (by rwa [Cell.scan_notifyOnChange]) (by rwa [Cell.scan_notifyOnHold]) (Cell.scan_lastScanPressed ..)
  exact ⟨_, _, hdown, hup, hreleased, Cell.scan_lastScanPressed threshold true c, rfl⟩

/-! ### The decode pass as DECODE_CELL on every record (R163) -/

/-- What DECODE_CELL answers for each cell when the link bytes `linkIn` are the answer: the record it leaves and the
events it appends. -/
def State.decodeAll (s : State) (linkIn : List Byte) : List (Cell × List Cell) :=
  s.cells.mapIdx fun p c => c.scan s.cfg.holdThreshold (pressed (reverseBytes linkIn) p)

theorem State.mapIdx_cells {α : Type} (s : State) (f : Nat → Cell → α) :
    s.cells.mapIdx f = (List.range s.cells.length).map fun p => f p (s.cellRead p) :=
  List.ext_getElem (by simp) fun p hp _ => by
    have hlt : p < s.cells.length := by simpa using hp
    simp [cellRead_of_getElem? s p _ (List.getElem?_eq_getElem hlt)]

theorem decodePass_cells_eq_decodeAll {s : State} (h : s.cells.length = s.cfg.nCells) (linkIn : List Byte) :
    (decodePass (reverseBytes linkIn) s).1.cells = (s.decodeAll linkIn).map Prod.fst := by
  rw [decodePass_cells _ s h, State.decodeAll]
  exact List.ext_getElem (by simp) fun p _ _ => by simp

theorem decodePass_events_eq_decodeAll {s : State} (h : s.cells.length = s.cfg.nCells) (linkIn : List Byte) :
    (decodePass (reverseBytes linkIn) s).2 = (s.decodeAll linkIn).flatMap Prod.snd := by
  rw [decodePass_events, State.decodeAll, State.mapIdx_cells, h, List.flatMap_map]

theorem zip_range_cells {s : State} (h : s.cells.length = s.cfg.nCells) :
    (List.range s.cfg.nCells).zip s.cells = s.cells.mapIdx Prod.mk :=
  List.ext_getElem (by simp [h]) fun p _ _ => by simp

/-- The same events, with each cell paired with its position. -/
theorem decodeAll_events_eq_zip {s : State} (h : s.cells.length = s.cfg.nCells) (linkIn : List Byte) :
    (s.decodeAll linkIn).flatMap Prod.snd = ((List.range s.cfg.nCells).zip s.cells).flatMap fun pc =>
      (pc.2.scan s.cfg.holdThreshold (pressed (reverseBytes linkIn) pc.1)).2 := by
  rw [zip_range_cells h, State.decodeAll, State.mapIdx_cells, State.mapIdx_cells, List.flatMap_map,
    List.flatMap_map]

/-- In a consistent block the event of a cell carries the cell's position as its id (R32). -/
theorem State.Inv.event_id_toNat {s : State} (h : s.Inv) {p threshold : Nat} {press : Bool} {e : Cell}
    (hp : p < s.cfg.nCells) (hn : s.cfg.nCells ≤ 2 ^ 16) (he : e ∈ ((s.cellRead p).scan threshold press).2) :
    e.id.toNat = p := by
  rw [Cell.scan_events_id he, h.cellRead_id hp, BitVec.toNat_ofNat, Nat.mod_eq_of_lt (hp.trans_le hn)]

/-- Settles O37: two events of one cell are ordered by its steps 5 and 6, events of two cells by the positions. -/
theorem eventsAscendAndAChangePrecedesAHold : Obligations.EventsAscendAndAChangePrecedesAHold := by
  intro s rx hinv hfault
  obtain ⟨-, hmax⟩ := hinv.nCells_bounds hfault
  have hn : s.cfg.nCells ≤ 2 ^ 16 := hmax.trans (by decide)
  rw [decodePass_events, List.pairwise_flatMap]
  constructor
  · intro p _
    refine (Cell.scan_events_pairwise ..).imp_of_mem fun ha hb hpending => .inr ⟨?_, hpending⟩
    rw [Cell.scan_events_id ha, Cell.scan_events_id hb]
  · refine List.pairwise_lt_range.imp_of_mem fun hp hq hlt a ha b hb => .inl ?_
    rwa [hinv.event_id_toNat (List.mem_range.mp hp) hn ha, hinv.event_id_toNat (List.mem_range.mp hq) hn hb]

/-! ### The completion step of a successful scan (R184) -/

@[simp] theorem State.finishScan_tx (s : State) (bytes : List Byte) : (s.finishScan bytes).tx = s.tx := by
  rw [State.finishScan_eq]
@[simp] theorem State.finishScan_phase (s : State) (bytes : List Byte) : (s.finishScan bytes).phase = .idle := rfl
@[simp] theorem State.finishScan_commands (s : State) (bytes : List Byte) :
    (s.finishScan bytes).commands = s.commands := by
  rw [State.finishScan_eq]
@[simp] theorem State.finishScan_answers (s : State) (bytes : List Byte) :
    (s.finishScan bytes).answers = s.answers := by
  rw [State.finishScan_eq]
@[simp] theorem State.finishScan_resets (s : State) (bytes : List Byte) :
    (s.finishScan bytes).resets = s.resets := by
  rw [State.finishScan_eq]

theorem State.finishScan_cells_eq_decodeAll {s : State} (h : s.cells.length = s.cfg.nCells) (bytes : List Byte) :
    (s.finishScan bytes).cells = (s.decodeAll bytes).map Prod.fst := by
  rw [State.finishScan_cells, decodePass_cells_eq_decodeAll h]

/-- The words of a successful scan: its events, then DONE with their number and the scan value of the scan. -/
theorem State.finishScan_responses {s : State} (h : s.cells.length = s.cfg.nCells) (bytes : List Byte) :
    (s.finishScan bytes).responses = s.responses ++ ((s.decodeAll bytes).flatMap Prod.snd).map snapshotWord ++
      [doneWord (BitVec.ofNat 16 ((s.decodeAll bytes).flatMap Prod.snd).length) s.sc] := by
  rw [State.finishScan_eq, decodePass_events_eq_decodeAll h, List.append_assoc]

/-- A waiting block that is answered NB bytes completes its scan. -/
theorem step_finishScan {s : State} {bytes : List Byte} (h : s.WillComplete (.ok bytes))
    (hlen : bytes.length = s.cfg.nb) : step s = .next (s.takeAnswer.finishScan bytes) := by
  rw [step_complete s _ h, State.completeScan_of_length (s := s.takeAnswer) hlen]

/-- Settles O27: the record DECODE_CELL leaves, in closed form. -/
theorem aSuccessfulScanLeavesEachRecordAsTheEightStepsSay :
    Obligations.ASuccessfulScanLeavesEachRecordAsTheEightStepsSay := by
  intro s bytes p c hinv hcomplete hlen hc
  have hcells := State.finishScan_cells_eq_decodeAll (s := s.takeAnswer) hinv.length_cells bytes
  refine ⟨_, _, _, _, _, step_finishScan hcomplete hlen, rfl, rfl, rfl, rfl, ?_⟩
  simp only [hcells, State.decodeAll, State.takeAnswer_cells, State.takeAnswer_cfg, List.getElem?_map,
    List.getElem?_mapIdx, hc, Option.map_some, Cell.scan_eq, pressed_reverseBytes, isHold_pressCount, toggle]
  rw [pressCount_eq]

/-- Settles O28: the events of every record, in closed form. -/
theorem aSuccessfulScanDeliversItsEventsThenDone : Obligations.ASuccessfulScanDeliversItsEventsThenDone := by
  intro s bytes hinv hcomplete hlen
  have hlength : s.takeAnswer.cells.length = s.takeAnswer.cfg.nCells := hinv.length_cells
  refine ⟨_, _, step_finishScan hcomplete hlen, ?_, State.finishScan_responses hlength bytes, ?_, ?_⟩
  · rw [decodeAll_events_eq_zip hlength]
    simp only [State.takeAnswer_cells, State.takeAnswer_cfg, Cell.scan_eq, pressed_reverseBytes, isHold_pressCount]
    simp only [pressCount_eq]
  · rw [State.finishScan_eq]
    rfl
  · simp

/-! ### A whole scan (R182, R191) -/

/-- What a RUN_SCAN with a successful exchange leaves: the issue step, then the completion step. -/
def State.wholeScan (s : State) (bytes : List Byte) : State := s.takeCommand.issueScan.takeAnswer.finishScan bytes

/-- A RUN_SCAN whose exchange succeeds takes two steps. -/
theorem run_wholeScan {s : State} {bytes : List Byte} {ws : List Word} {rest : List Answer} (hready : s.Ready)
    (hresets : s.resets = []) (hw : s.commands = 0x0000000000000003 :: ws) (ha : s.answers = .ok bytes :: rest)
    (hlen : bytes.length = s.cfg.nb) (k : Nat) : core.run (k + 2) s = core.run k (s.wholeScan bytes) := by
  have hissue := step_runScan (by simp [State.NoReset, hresets]) hready hw
  have hcomplete : s.takeCommand.issueScan.WillComplete (.ok bytes) :=
    ⟨by simp [State.NoReset, hresets], State.issueScan_phase _, by simp [ha]⟩
  have hfinish := step_finishScan hcomplete (by simpa using hlen)
  exact (run_succ (k + 1) _ _ hissue).trans (run_succ k _ _ hfinish)

theorem State.issueScan_length_cells {s : State} (h : s.cells.length = s.cfg.nCells) :
    s.issueScan.cells.length = s.issueScan.cfg.nCells := by
  rw [State.issueScan_cells_of_length h, List.length_map, State.issueScan_cfg, h]

/-- The decode pass of a whole scan sees the records as the encode pass left them. -/
theorem State.decodeAll_issueScan {s : State} (h : s.cells.length = s.cfg.nCells) (bytes : List Byte) :
    s.takeCommand.issueScan.takeAnswer.decodeAll bytes = s.cells.mapIdx fun p c =>
      (c.encode s.cfg s.sc).scan s.cfg.holdThreshold (pressed (reverseBytes bytes) p) := by
  rw [State.decodeAll, State.takeAnswer_cells, State.takeCommand_issueScan_cells h]
  exact List.ext_getElem (by simp) fun p _ _ => by simp

/-- Settles O32: the completion step runs on the state the issue step leaves. -/
theorem aWholeScanEncodesThenDecodesEveryCell : Obligations.AWholeScanEncodesThenDecodesEveryCell := by
  intro s bytes ws rest hinv hready hresets hw ha hlen
  have hlength : s.takeCommand.issueScan.takeAnswer.cells.length = s.takeCommand.issueScan.takeAnswer.cfg.nCells :=
    State.issueScan_length_cells (s := s.takeCommand) hinv.length_cells
  have hscanned := State.decodeAll_issueScan hinv.length_cells bytes
  refine ⟨s.wholeScan bytes, s.takeCommand.issueScan.takeAnswer.decodeAll bytes, _,
    run_wholeScan hready hresets hw ha hlen 0, ?scanned, State.finishScan_cells_eq_decodeAll hlength bytes, rfl,
    ?responses, ?sc, rfl, ?commands, ?answers, reverseBytes s.takeCommand.issueScan.tx, ?call, ?length⟩
  case scanned =>
    simp only [hscanned, pressed_reverseBytes]
    rfl
  case responses =>
    rw [State.wholeScan, State.finishScan_responses hlength]
    simp
  case sc => simp [State.wholeScan]
  case commands => simp [State.wholeScan, hw]
  case answers => simp [State.wholeScan, ha]
  case call => simp [State.wholeScan, State.issueScan_linkOut]
  case length =>
    have hinv' : s.takeCommand.Inv := .of_sameBlock s.sameBlock_takeCommand hinv
    rw [reverseBytes_length, hinv'.length_issueScan_tx hready.2, State.takeCommand_cfg]

end Sys2Proof.Machine
end

section
/-! The commands on a block that can run them and on one that cannot (43_scan_controller.md R180, R181, R185 to R190,
R194): the registration commands as whole next states, a command that waits or is answered ERR_CONFIG, and a scan
whose exchange fails. -/

namespace Sys2Proof.Machine

/-! ### The error words that carry a value (30_encoding.md R90, R94) -/

theorem ErrorKind.word_indexOutOfRange (pos : Half) :
    (ErrorKind.indexOutOfRange pos).word = BitVec.ofNat 64 (pos.toNat * 2 ^ 16 + 8) := by
  obtain ⟨-, hindex, -⟩ := doneAndErrorWordsAsNumbers
  rw [← hindex pos, BitVec.ofNat_toNat, BitVec.setWidth_eq]

theorem ErrorKind.word_transportError (reason : Byte) :
    (ErrorKind.transportError reason).word = BitVec.ofNat 64 (reason.toNat * 2 ^ 8 + 9) := by
  obtain ⟨-, -, htransport, -⟩ := doneAndErrorWordsAsNumbers
  rw [← htransport reason, BitVec.ofNat_toNat, BitVec.setWidth_eq]

/-! ### SET_CELL and GET_CELL (R186 to R190) -/

/-- Settles O12: `Cell.configure` written out field by field. -/
theorem setCellReplacesSevenFieldsAndNothingElse : Obligations.SetCellReplacesSevenFieldsAndNothingElse := by
  intro s pos count cb hready hpos
  rw [exec_of_ready _ hready, commandEffect_setCell, State.setCell_of_lt hpos]
  rfl

/-- Settles O13: the record that GET_CELL reads is the cell's entry of the array. -/
theorem getCellAnswersTheSnapshotAndChangesNothing : Obligations.GetCellAnswersTheSnapshotAndChangesNothing := by
  intro s pos c hready hpos hc
  rw [exec_of_ready _ hready, commandEffect_getCell, State.getCell_of_lt hpos, cellRead_of_getElem? s _ c hc]
  rfl

theorem State.setCell_of_le {s : State} {pos : Half} (h : s.cfg.nCells ≤ pos.toNat) (cb : CellByte) (count : Half) :
    s.setCell pos cb count = s.raise (.indexOutOfRange pos) := by
  obtain ⟨hlt, -⟩ | ⟨-, heq⟩ := s.setCell_cases pos cb count
  · exact absurd hlt h.not_gt
  · exact heq

theorem State.getCell_of_le {s : State} {pos : Half} (h : s.cfg.nCells ≤ pos.toNat) :
    s.getCell pos = s.raise (.indexOutOfRange pos) := by
  obtain ⟨hlt, -⟩ | ⟨-, heq⟩ := s.getCell_cases pos
  · exact absurd hlt h.not_gt
  · exact heq

/-- Settles O14: both commands report the same error, which an `IDLE` block only appends to its responses. -/
theorem aPositionPastTheChainIsAnsweredErrIndex : Obligations.APositionPastTheChainIsAnsweredErrIndex := by
  intro s pos count cb hready hpos
  have herror : s.raise (.indexOutOfRange pos) =
      { s with responses := s.responses ++ [BitVec.ofNat 64 (pos.toNat * 2 ^ 16 + 8)] } := by
    rw [State.raise_of_idle hready.1, ErrorKind.word_indexOutOfRange]
    rfl
  rw [exec_of_ready _ hready, exec_of_ready _ hready, commandEffect_setCell, commandEffect_getCell,
    State.setCell_of_le hpos, State.getCell_of_le hpos, herror]
  exact ⟨rfl, rfl⟩

/-- Settles O17: by definition. -/
theorem setStateKeepsEveryOtherField : Obligations.SetStateKeepsEveryOtherField := fun _ _ => ⟨rfl, rfl⟩

/-! ### SET_CELL twice (20_memory.md R68) -/

/-- An error word leaves an `IDLE` block's own state. -/
theorem State.sameBlock_raise {s : State} (h : s.phase = .idle) (e : ErrorKind) : s.SameBlock (s.raise e) :=
  ⟨rfl, rfl, rfl, rfl, h.symm, rfl⟩

theorem State.SameBlock.ready_iff {s t : State} (h : s.SameBlock t) : t.Ready ↔ s.Ready := by
  obtain ⟨-, -, -, -, hphase, hfault⟩ := h
  rw [State.Ready, State.Ready, hphase, hfault]

/-- A block that cannot run a command keeps its own state when it is offered one (R180, R181). -/
theorem State.sameBlock_accept {s : State} (h : ¬ s.Ready) (run : State → State) : s.SameBlock (s.accept run) := by
  obtain ⟨-, heq⟩ | ⟨hidle, -, heq⟩ | ⟨hready, -⟩ := s.accept_cases run
  · rw [heq]
    exact ⟨rfl, rfl, rfl, rfl, rfl, rfl⟩
  · rw [heq]
    exact State.sameBlock_raise hidle _
  · exact absurd hready h

theorem State.Ready.setCell {s : State} (h : s.Ready) (pos : Half) (cb : CellByte) (count : Half) :
    (s.setCell pos cb count).Ready := by
  obtain ⟨-, heq⟩ | ⟨-, heq⟩ := s.setCell_cases pos cb count <;> rw [heq]
  · exact h
  · exact ⟨rfl, h.2⟩

/-- SET_CELL writes what its operands say, whatever the record held. -/
theorem Cell.configure_configure (c : Cell) (cb : CellByte) (count : Half) :
    (c.configure cb count).configure cb count = c.configure cb count := rfl

theorem State.sameBlock_setCell_setCell {s : State} (h : s.Ready) (pos : Half) (cb : CellByte) (count : Half) :
    (s.setCell pos cb count).SameBlock ((s.setCell pos cb count).setCell pos cb count) := by
  by_cases hpos : pos.toNat < s.cfg.nCells
  · have hpos' : pos.toNat < (s.setCell pos cb count).cfg.nCells := by rwa [State.setCell_of_lt hpos]
    rw [State.setCell_of_lt hpos', State.setCell_of_lt hpos]
    refine ⟨rfl, ?_, rfl, rfl, rfl, rfl⟩
    simp only [List.modify_modify_eq, Function.comp_def, Cell.configure_configure]
  · have hpos' : (s.setCell pos cb count).cfg.nCells ≤ pos.toNat := by
      rw [State.setCell_of_le (not_lt.mp hpos)]
      exact not_lt.mp hpos
    rw [State.setCell_of_le hpos']
    exact State.sameBlock_raise (h.setCell pos cb count).1 _

/-- Settles O16: a ready block stays ready and writes the same record again; any other block writes nothing. -/
theorem setCellIsIdempotent : Obligations.SetCellIsIdempotent := by
  intro s t u pos count cb hfirst hsecond
  rw [exec_eq, Host.Outcome.next.injEq] at hfirst hsecond
  by_cases hready : s.Ready
  · obtain rfl : s.setCell pos cb count = t := by rwa [s.accept_ready _ hready] at hfirst
    rw [State.accept_ready _ _ (hready.setCell pos cb count)] at hsecond
    exact hsecond ▸ State.sameBlock_setCell_setCell hready pos cb count
  · have hsame : s.SameBlock t := hfirst ▸ State.sameBlock_accept hready _
    exact hsecond ▸ State.sameBlock_accept (mt hsame.ready_iff.mp hready) _

/-! ### Accepting a word (R180, R181) -/

theorem State.willAccept_of_commands {s : State} {w : Word} {ws : List Word} (hreset : s.NoReset)
    (hidle : s.phase = .idle) (hw : s.commands = w :: ws) : s.WillAccept w := ⟨hreset, hidle, by rw [hw]; rfl⟩

/-- Settles O19. -/
theorem aStepRunsTheDecodedCommand : Obligations.AStepRunsTheDecodedCommand := by
  intro s w ws i hreset hidle hw hd
  rw [step_accept s w (State.willAccept_of_commands hreset hidle hw), hd, ← State.takeCommand_of_commands hw]

/-- With a malformed configuration an accepted word, legal or not, is answered ERR_CONFIG (R213, R216). -/
theorem step_of_fault {s : State} {w : Word} (hw : s.WillAccept w) (hf : s.cfgFault = true) :
    step s = .next (s.takeCommand.raise .configError) := by
  have herror (run : State → State) : s.takeCommand.accept run = s.takeCommand.raise .configError :=
    s.takeCommand.accept_fault run hw.idle hf
  rw [step_accept s w hw]
  cases decode w with
  | ok i => exact (exec_eq i _).trans (congrArg _ (herror _))
  | error r => exact congrArg Host.Outcome.next (herror _)

/-- Settles O21: the error word on the state in which the word is taken. -/
theorem aMalformedConfigurationAnswersEveryWordErrConfig :
    Obligations.AMalformedConfigurationAnswersEveryWordErrConfig := by
  intro s w ws hreset hidle hf hw
  have hidle' : s.takeCommand.phase = .idle := hidle
  rw [step_of_fault (State.willAccept_of_commands hreset hidle hw) hf, State.raise_of_idle hidle',
    State.takeCommand_of_commands hw]
  rfl

@[simp] theorem State.completeScan_commands (s : State) (a : Answer) : (s.completeScan a).commands = s.commands := by
  obtain ⟨bytes, -, -, heq⟩ | ⟨reason, heq⟩ := s.completeScan_cases a <;> simp [heq]

/-- Settles O23: of the cases of a step, those that take a word need an `IDLE` block. -/
theorem aCommandWaitsWhileAScanIsInProgress : Obligations.ACommandWaitsWhileAScanIsInProgress := by
  intro s hwait
  have hbusy (w : Word) : ¬ s.WillAccept w := fun hw => by cases hwait.symm.trans hw.idle
  refine ⟨fun i => by rw [exec_eq, s.accept_xferWait _ hwait], fun t hstep => ?_⟩
  obtain ⟨c, -, rfl⟩ | ⟨a, -, rfl⟩ | ⟨-, -, -, rfl⟩ | ⟨w, i, hw, -⟩ | ⟨w, r, hw, -⟩ | ⟨-, -, -, rfl⟩ :=
    step_cases s t hstep
  · exact s.takeReset_commands c
  · rw [State.completeScan_commands, State.takeAnswer_commands]
  · exact s.tick_commands
  · exact absurd hw (hbusy w)
  · exact absurd hw (hbusy w)
  · exact s.tick_commands

/-! ### A scan whose exchange fails (R185, R192, R194, R219) -/

/-- A failed exchange is reported with the transport's reason (R185). -/
theorem State.completeScan_fail (s : State) (reason : Byte) :
    s.completeScan (.fail reason) = s.raise (.transportError reason) := rfl

/-- Settles O29: the error word, `IDLE`, and the answer taken. -/
theorem aFailedExchangeChangesNothingButThePhase : Obligations.AFailedExchangeChangesNothingButThePhase := by
  intro s reason hfail
  rw [step_complete s _ hfail, State.completeScan_fail, State.raise, ErrorKind.word_transportError]
  rfl

/-- An answer of the wrong length completes a scan as `fail(0xFF)` does (R194). -/
theorem State.completeScan_of_length_ne {s : State} {bytes : List Byte} (h : bytes.length ≠ s.cfg.nb) :
    s.completeScan (.ok bytes) = s.completeScan (.fail 0xFF) := if_neg h

/-- Settles O30: both answers complete the scan from the same state. -/
theorem anAnswerOfTheWrongLengthIsAFailure : Obligations.AnAnswerOfTheWrongLengthIsAFailure := by
  intro s bytes rest hreset hwait hlen
  rw [step_answered hreset hwait, step_answered hreset hwait]
  exact congrArg Host.Outcome.next (State.completeScan_of_length_ne hlen)

@[simp] theorem State.failScan_answers (s : State) (reason : Byte) :
    (s.failScan reason).answers = s.answers.tail := by
  simp [State.failScan]
@[simp] theorem State.failScan_responses (s : State) (reason : Byte) :
    (s.failScan reason).responses = s.responses ++ [(ErrorKind.transportError reason).word] := by
  simp [State.failScan]

/-- The block after a failed scan is consistent: the issue step kept it so, and the error word changes the phase
alone. -/
theorem State.Inv.failScan {s : State} (h : s.Inv) (hf : s.cfgFault = false) (reason : Byte) :
    (s.failScan reason).Inv := by
  have htaken : s.takeCommand.Inv := .of_sameBlock s.sameBlock_takeCommand h
  have hanswered : s.takeCommand.issueScan.takeAnswer.Inv :=
    .of_sameBlock (State.sameBlock_takeAnswer _) (htaken.issueScan hf)
  exact .of_sameBlock ⟨rfl, rfl, rfl, rfl, rfl, rfl⟩ (hanswered.setPhase (.inl rfl))

/-- Settles O33: the issue step and the error word, field by field; `tx` is PACK of the new lamp bits by the
invariant. -/
theorem aFailedScanKeepsOnlyTheEncodePass : Obligations.AFailedScanKeepsOnlyTheEncodePass := by
  intro s reason ws rest hinv hready hresets hw ha
  obtain ⟨-, htx, -⟩ := hinv.failScan hready.2 reason
  rw [State.TxIsPacked, State.failScan_cfg] at htx
  refine ⟨s.failScan reason, run_failScan hready hresets hw ha 0, State.failScan_cells hinv.length_cells reason, htx,
    s.failScan_cfg reason, s.failScan_sc reason, hready.1.symm, s.failScan_cfgFault reason, ?commands, ?answers,
    ?responses⟩
  case commands => rw [State.failScan_commands, hw, List.tail_cons]
  case answers => rw [State.failScan_answers, ha, List.tail_cons]
  case responses => rw [State.failScan_responses, ErrorKind.word_transportError]

end Sys2Proof.Machine
end

section
/-! The errors of the block (60_exceptions.md R210 to R216, R218): no step stops, and ERR_INDEX is the answer of a
registration command alone, after the checks that stand in front of it. -/

namespace Sys2Proof.Machine

/-! ### No step stops the machine (R215, R218) -/

/-- Settles O52: the block's next move, whatever it is, has a next state; for a legal word it is the one of
`exec_eq`. -/
theorem everyStepAnswersANextState : Obligations.EveryStepAnswersANextState := by
  intro s
  unfold step
  cases s.turn with
  | reset c => exact ⟨_, rfl⟩
  | complete a => exact ⟨_, rfl⟩
  | hang => exact ⟨_, rfl⟩
  | rest => exact ⟨_, rfl⟩
  | accept w =>
    dsimp only
    cases decode w with
    | ok i => exact ⟨_, exec_eq i s.takeCommand⟩
    | error r => exact ⟨_, rfl⟩

/-! ### The ERR_INDEX word among the responses (30_encoding.md R90, R94) -/

/-- An ERR_INDEX word carries its position in the field of POS, and its KIND 8 in the field of OPC. -/
theorem ErrorKind.word_indexOutOfRange_eq_commandWord (pos : Half) :
    (ErrorKind.indexOutOfRange pos).word = commandWord 0 pos 0 8 := by
  refine BitVec.eq_of_toNat_eq ?_
  simp only [ErrorKind.word, commandWord, toNat_append_eq_add, BitVec.ofNat_eq_ofNat, BitVec.toNat_ofNat]
  omega

@[simp] theorem opcField_word_indexOutOfRange (pos : Half) :
    opcField (ErrorKind.indexOutOfRange pos).word = 8 := by
  rw [ErrorKind.word_indexOutOfRange_eq_commandWord, opcField_commandWord]

@[simp] theorem posField_word_indexOutOfRange (pos : Half) :
    posField (ErrorKind.indexOutOfRange pos).word = pos := by
  rw [ErrorKind.word_indexOutOfRange_eq_commandWord, posField_commandWord]

/-- A word with another KIND in its low four bits is no ERR_INDEX word. -/
theorem ne_word_indexOutOfRange {w : Word} (h : opcField w ≠ 8) (pos : Half) :
    w ≠ (ErrorKind.indexOutOfRange pos).word := by
  rintro rfl
  exact h (opcField_word_indexOutOfRange pos)

theorem snapshotWord_ne_word_indexOutOfRange (c : Cell) (pos : Half) :
    snapshotWord c ≠ (ErrorKind.indexOutOfRange pos).word :=
  ne_word_indexOutOfRange (by rw [snapshotWord_eq_commandWord, opcField_commandWord]; decide) pos

/-- ERR_INDEX words of different positions differ. -/
theorem ErrorKind.word_indexOutOfRange_inj {p q : Half} :
    (ErrorKind.indexOutOfRange p).word = (ErrorKind.indexOutOfRange q).word ↔ p = q :=
  ⟨fun h => by simpa using congrArg posField h, congrArg fun pos => (ErrorKind.indexOutOfRange pos).word⟩

/-! ### What delivers exactly an ERR_INDEX word (R211, R216) -/

/-- The next state `t` delivers the word `w` and no other. -/
def State.DeliversOnly (s t : State) (w : Word) : Prop := t.responses = s.responses ++ [w]

@[simp] theorem State.deliversOnly_emit_singleton_iff (s : State) (v w : Word) :
    s.DeliversOnly (s.emit [v]) w ↔ v = w := by
  simp [State.DeliversOnly]

@[simp] theorem State.deliversOnly_raise_iff (s : State) (e : ErrorKind) (w : Word) :
    s.DeliversOnly (s.raise e) w ↔ e.word = w := by
  simp [State.DeliversOnly]

/-- SET_CELL delivers ERR_INDEX only for its own position, and only past the chain (R187). -/
theorem State.setCell_deliversOnly_errIndex {s : State} {pos p : Half} {cb : CellByte} {count : Half}
    (h : s.DeliversOnly (s.setCell pos cb count) (ErrorKind.indexOutOfRange p).word) :
    pos = p ∧ s.cfg.nCells ≤ p.toNat := by
  obtain ⟨-, heq⟩ | ⟨hle, heq⟩ := s.setCell_cases pos cb count <;> rw [heq] at h
  · have hzero : (0 : Word) = (ErrorKind.indexOutOfRange p).word := by simpa [State.DeliversOnly] using h
    exact absurd hzero (ne_word_indexOutOfRange (by decide) p)
  · obtain rfl : pos = p := by rwa [State.deliversOnly_raise_iff, ErrorKind.word_indexOutOfRange_inj] at h
    exact ⟨rfl, hle⟩

/-- GET_CELL delivers ERR_INDEX only for its own position, and only past the chain (R189). -/
theorem State.getCell_deliversOnly_errIndex {s : State} {pos p : Half}
    (h : s.DeliversOnly (s.getCell pos) (ErrorKind.indexOutOfRange p).word) :
    pos = p ∧ s.cfg.nCells ≤ p.toNat := by
  obtain ⟨-, heq⟩ | ⟨hle, heq⟩ := s.getCell_cases pos <;> rw [heq] at h
  · rw [State.deliversOnly_emit_singleton_iff] at h
    exact absurd h (snapshotWord_ne_word_indexOutOfRange _ p)
  · obtain rfl : pos = p := by rwa [State.deliversOnly_raise_iff, ErrorKind.word_indexOutOfRange_inj] at h
    exact ⟨rfl, hle⟩

/-- RUN_SCAN's issue step delivers nothing (R183). -/
theorem State.not_deliversOnly_issueScan (s : State) (w : Word) : ¬ s.DeliversOnly s.issueScan w := by
  simp [State.DeliversOnly]

/-- A command delivers ERR_INDEX only if it is a registration command of a position past the chain (R211). -/
theorem commandEffect_deliversOnly_errIndex {i : Instr} {s : State} {p : Half}
    (h : s.DeliversOnly (commandEffect i s) (ErrorKind.indexOutOfRange p).word) :
    s.cfg.nCells ≤ p.toNat ∧ ((∃ cb n, i = .setCell p cb n) ∨ i = .getCell p) := by
  cases i with
  | setCell pos cb count =>
    obtain ⟨rfl, hle⟩ := State.setCell_deliversOnly_errIndex h
    exact ⟨hle, .inl ⟨cb, count, rfl⟩⟩
  | getCell pos =>
    obtain ⟨rfl, hle⟩ := State.getCell_deliversOnly_errIndex h
    exact ⟨hle, .inr rfl⟩
  | runScan => exact absurd h (s.not_deliversOnly_issueScan _)

/-- Settles O22: the checks in their order (R216). A malformed configuration is answered ERR_CONFIG and an Illegal
word ERR_ILLEGAL; behind both the word's command ran. -/
theorem errIndexOnlyAfterTheOtherChecks : Obligations.ErrIndexOnlyAfterTheOtherChecks := by
  intro s t w p hw hstep hresp
  have hdelivers : s.takeCommand.DeliversOnly t (ErrorKind.indexOutOfRange p).word := hresp
  obtain ⟨hreset, hidle, hhead⟩ := hw
  obtain ⟨ws, hcommands⟩ := List.head?_eq_some_iff.mp hhead
  cases hf : s.cfgFault with
  | true =>
    rw [step_of_fault ⟨hreset, hidle, hhead⟩ hf, Host.Outcome.next.injEq] at hstep
    rw [← hstep, State.deliversOnly_raise_iff] at hdelivers
    exact absurd hdelivers (ne_word_indexOutOfRange (by decide) p)
  | false =>
    cases hd : decode w with
    | error r =>
      rw [step_of_decode_error hreset ⟨hidle, hf⟩ hcommands hd, Host.Outcome.next.injEq] at hstep
      rw [← hstep, State.deliversOnly_raise_iff] at hdelivers
      exact absurd hdelivers (ne_word_indexOutOfRange (by decide) p)
    | ok i =>
      rw [step_of_decode hreset ⟨hidle, hf⟩ hcommands hd, Host.Outcome.next.injEq] at hstep
      rw [← hstep] at hdelivers
      obtain ⟨hle, hcommand⟩ := commandEffect_deliversOnly_errIndex hdelivers
      exact ⟨rfl, hle, by simpa using hcommand⟩

end Sys2Proof.Machine
end

section
/-! A scan whose call is never answered (70_reset_and_hazards.md R254): the waiting block's step uses up one step of
the reset input and does nothing else, so with no reset to come the waiting state is a fixed point of the step. -/

namespace Sys2Proof.Machine

/-- With no reset to come, nothing of the reset input is left to pass. -/
theorem State.tick_of_no_resets {s : State} (h : s.resets = []) : s.tick = s := by
  rw [State.tick, h, List.tail_nil, ← h]

/-- A waiting block without an answer only lets one step of the reset input pass. -/
theorem step_unanswered {s : State} (hr : s.NoReset) (hp : s.phase = .xferWait) (ha : s.answers = []) :
    step s = .next s.tick := by
  have hturn : s.turn = .hang := by simp only [s.turn_noReset hr, hp, ha, List.head?_nil]
  simp only [step, hturn]

/-- A state that a step leaves as it is, is left as it is by every run. -/
theorem run_of_step_eq_self {s : State} (h : step s = .next s) (k : Nat) : core.run k s = .next s := by
  induction k with
  | zero => exact run_zero s
  | succ k ih => rw [run_succ k s s h, ih]

/-- Settles O31: the waiting state is a fixed point of the step, hence of every run. -/
theorem withoutAnAnswerTheScanWaitsForEver : Obligations.WithoutAnAnswerTheScanWaitsForEver := by
  intro s k hwait hanswers hresets
  have hnoReset : s.NoReset := by rw [State.NoReset, hresets]; rfl
  have hstep : step s = .next s := by rw [step_unanswered hnoReset hwait hanswers, State.tick_of_no_resets hresets]
  exact run_of_step_eq_self hstep k

end Sys2Proof.Machine
end

section
/-! Reset (10_state.md R49, 70_reset_and_hazards.md R240, R242): the step that sees it, and the state it gives. -/

namespace Sys2Proof.Machine

/-- An active reset input wins over everything else the block could do next (60_exceptions.md R217). -/
theorem step_of_reset {s : State} {c : Config} (h : s.resets.head? = some (some c)) :
    step s = .next (s.takeReset c) := by
  simp only [step, s.turn_reset c h]

/-- Of the transport's answers a reset discards the one to an outstanding call, and no other. -/
theorem State.takeReset_answers_eq_ite (s : State) (c : Config) :
    (s.takeReset c).answers = if s.phase = .xferWait then s.answers.tail else s.answers := by
  rw [State.takeReset_answers]
  cases s.phase with
  | xferWait => rfl
  | idle => rfl

/-- Settles O49: the step takes the reset, whose only reading of the phase is in the answers left. -/
theorem resetAbandonsAScanInProgress : Obligations.ResetAbandonsAScanInProgress := by
  intro s c rest hresets
  have hhead : s.resets.head? = some (some c) := by rw [hresets, List.head?_cons]
  have hrest : (s.takeReset c).resets = rest := by rw [State.takeReset_resets, hresets, List.tail_cons]
  rw [step_of_reset hhead, ← s.takeReset_answers_eq_ite c, ← hrest]
  rfl

/-- Settles O50: every constructed block is consistent, and the machine's reset constructs one. -/
theorem theResetStateIsConsistent : Obligations.TheResetStateIsConsistent := State.construct_inv Config.standard

end Sys2Proof.Machine
end
